-- ==== Sys2Proof/Word.lean ====
section
/-! DEFINITION. The word types of the ChecksumEngine block: 00_scope.md R11 fixes the command and operand
width at 32 bits, 10_state.md R22 the accumulators at 16, 30_encoding.md R70 the byte lanes at 8. -/

namespace Sys2Proof

/-- A byte lane, a wire byte or a byte of a folded sequence. -/
abbrev Byte := BitVec 8

/-- An accumulator register or a header word. -/
abbrev Half := BitVec 16

/-- The command word CMD, an operand word ARG0 or ARG1, or RESULT. -/
abbrev Word := BitVec 32

end Sys2Proof
end

