-- ==== Sys2Proof/Syntax.lean ====
section
/-! DEFINITION. Commands as the port carries them (30_encoding.md R61) and the nine instructions of
opcode_table.json (30_encoding.md R63), each with the operand words that its rule names. -/

namespace Sys2Proof

/-- One transfer on the command port: CMD, ARG0 and ARG1 are sampled together (30_encoding.md R60, R61). -/
structure Command where
  cmd  : Word
  arg0 : Word
  arg1 : Word
  deriving DecidableEq, Repr

/-- The instructions, one constructor per row of opcode_table.json. An operand word is kept whole: which of its bits an
instruction reads is part of its meaning (30_encoding.md R62, R70). -/
inductive Instr where
  /-- NOP, OPC 0x00 (40_checksum_engine.md R82). -/
  | nop
  /-- CE_INIT, OPC 0x01 (R84). -/
  | ceInit
  /-- CE_UPDATE, OPC 0x02: LEN = CMD[10:8] and the byte lanes in ARG0 (R86). -/
  | ceUpdate (len : BitVec 3) (arg0 : Word)
  /-- CE_FINAL, OPC 0x03 (R88). -/
  | ceFinal
  /-- CE_LOAD, OPC 0x04: the checksum value to restore in ARG0 (R90). -/
  | ceLoad (arg0 : Word)
  /-- CE_VERIFY, OPC 0x05: the received trailer in ARG0 (R92). -/
  | ceVerify (arg0 : Word)
  /-- CE_COMBINE, OPC 0x06: the second sequence's checksum in ARG0, its length in ARG1 (R94). -/
  | ceCombine (arg0 arg1 : Word)
  /-- HC_PARSE, OPC 0x10: the header word in ARG0[15:0] (41_header_codec.md R112). -/
  | hcParse (arg0 : Word)
  /-- HC_SERIALIZE, OPC 0x11: the descriptor in ARG0 (41_header_codec.md R114). -/
  | hcSerialize (arg0 : Word)
  deriving DecidableEq, Repr

end Sys2Proof
end

