-- ==== Sys2Proof/WellFormed.lean ====
section
/-! DEFINITION. Which terms of Instr are instructions of the block. -/

namespace Sys2Proof

/-- LEN is legal for CE_UPDATE from 0 to 4 (30_encoding.md R65); every other field of an instruction is an operand word,
of which every value is accepted at decode (30_encoding.md R62). -/
def Instr.wf : Instr → Bool
  | .nop => true
  | .ceInit => true
  | .ceUpdate len _ => decide (len.toNat ≤ 4)
  | .ceFinal => true
  | .ceLoad _ => true
  | .ceVerify _ => true
  | .ceCombine _ _ => true
  | .hcParse _ => true
  | .hcSerialize _ => true

end Sys2Proof
end

