-- ==== Sys2Proof/Decode.lean ====
section
/-! DEFINITION. The decoder of 30_encoding.md R64, total on every command word and rejecting by name, then the encoder,
written from the field table of R61 and the opcode map of R63. The one check of R64 that is not made here is the last,
HAS_COMBINE: it needs the configuration, comes after every other, and stands first in the meaning of CE_COMBINE (log 9). -/

namespace Sys2Proof

/-- Which check of R64 a command word fails. All of them raise ILLEGAL_COMMAND (60_exceptions.md R134). -/
inductive DecodeError where
  /-- OPC is not in the map of R63. -/
  | unknownOpcode
  /-- RSV ≠ 0. -/
  | reservedNotZero
  /-- LEN ≠ 0 with an OPC other than that of CE_UPDATE. -/
  | lengthNotZero
  /-- LEN from 5 to 7 with the OPC of CE_UPDATE. -/
  | lengthTooLarge
  deriving DecidableEq, Repr

/-- OPC = CMD[7:0] (30_encoding.md R61). -/
def opcOf (cmd : Word) : BitVec 8 := cmd.extractLsb' 0 8

/-- LEN = CMD[10:8] (30_encoding.md R61). -/
def lenOf (cmd : Word) : BitVec 3 := cmd.extractLsb' 8 3

/-- RSV = CMD[31:11] (30_encoding.md R61). -/
def rsvOf (cmd : Word) : BitVec 21 := cmd.extractLsb' 11 21

/-- The rule an opcode selects, with the fields it takes from the transfer (the opcode map, 30_encoding.md R63). -/
def select (c : Command) : Option Instr :=
  match (opcOf c.cmd).toNat with
  | 0x00 => some .nop
  | 0x01 => some .ceInit
  | 0x02 => some (.ceUpdate (lenOf c.cmd) c.arg0)
  | 0x03 => some .ceFinal
  | 0x04 => some (.ceLoad c.arg0)
  | 0x05 => some (.ceVerify c.arg0)
  | 0x06 => some (.ceCombine c.arg0 c.arg1)
  | 0x10 => some (.hcParse c.arg0)
  | 0x11 => some (.hcSerialize c.arg0)
  | _    => none

/-- The decoder: R64's checks in R64's order. -/
def decode (c : Command) : Except DecodeError Instr :=
  match select c with
  | none => .error .unknownOpcode
  | some i =>
    if rsvOf c.cmd ≠ 0 then .error .reservedNotZero
    else if opcOf c.cmd ≠ 0x02 ∧ lenOf c.cmd ≠ 0 then .error .lengthNotZero
    else if opcOf c.cmd = 0x02 ∧ 4 < (lenOf c.cmd).toNat then .error .lengthTooLarge
    else .ok i

/-- One transfer from its bits, numbered as opcode_table.json numbers them: CMD is bits 31..0, then ARG0, then ARG1.
Bits from `nbits` up are 0 (log 12). -/
def Command.ofBits (nbits w : Nat) : Command :=
  let v := w % 2 ^ nbits
  { cmd := BitVec.ofNat 32 v, arg0 := BitVec.ofNat 32 (v / 2 ^ 32), arg1 := BitVec.ofNat 32 (v / 2 ^ 64) }

/-- The instruction the decoder reads from a row's word. A transfer has 96 bits, so a longer word is none. -/
def decodeTableWord (nbits w : Nat) : Option Instr :=
  if 96 < nbits then none
  else
    match decode (Command.ofBits nbits w) with
    | .ok i => some i
    | .error _ => none

/-- An instruction's opcode (30_encoding.md R63). -/
def Instr.opcode : Instr → BitVec 8
  | .nop => 0x00
  | .ceInit => 0x01
  | .ceUpdate _ _ => 0x02
  | .ceFinal => 0x03
  | .ceLoad _ => 0x04
  | .ceVerify _ => 0x05
  | .ceCombine _ _ => 0x06
  | .hcParse _ => 0x10
  | .hcSerialize _ => 0x11

/-- An instruction's LEN field: the byte count of CE_UPDATE, 0 for every other (30_encoding.md R61). -/
def Instr.lenField : Instr → BitVec 3
  | .ceUpdate len _ => len
  | .nop | .ceInit | .ceFinal | .ceLoad _ | .ceVerify _ | .ceCombine _ _ | .hcParse _ | .hcSerialize _ => 0

/-- An instruction's ARG0; an operand that the assembly form omits is assembled as 0 (30_encoding.md R71). -/
def Instr.arg0 : Instr → Word
  | .ceUpdate _ a | .ceLoad a | .ceVerify a | .ceCombine a _ | .hcParse a | .hcSerialize a => a
  | .nop | .ceInit | .ceFinal => 0

/-- An instruction's ARG1, which only CE_COMBINE has (30_encoding.md R62, R71). -/
def Instr.arg1 : Instr → Word
  | .ceCombine _ b => b
  | .nop | .ceInit | .ceUpdate _ _ | .ceFinal | .ceLoad _ | .ceVerify _ | .hcParse _ | .hcSerialize _ => 0

/-- A command word from its fields: RSV = 0, then LEN, then OPC (30_encoding.md R61). -/
def packCmd (len : BitVec 3) (opc : BitVec 8) : Word := (0 : BitVec 21) ++ len ++ opc

/-- The transfer that stands for an instruction. -/
def encode (i : Instr) : Command := { cmd := packCmd i.lenField i.opcode, arg0 := i.arg0, arg1 := i.arg1 }

/-- A row of opcode_table.json: the row's words are those with `w &&& mask = value`. -/
structure OpcodeRow where
  mnemonic : String
  mask     : Word
  value    : Word
  deriving DecidableEq, Repr

/-- opcode_table.json, each row's `mask` and `match` over the whole CMD (30_encoding.md R63). -/
def opcodeTable : List OpcodeRow :=
  [ ⟨"NOP",          0xFFFFFFFF, 0x00000000⟩,
    ⟨"CE_INIT",      0xFFFFFFFF, 0x00000001⟩,
    ⟨"CE_UPDATE",    0xFFFFF8FF, 0x00000002⟩,
    ⟨"CE_FINAL",     0xFFFFFFFF, 0x00000003⟩,
    ⟨"CE_LOAD",      0xFFFFFFFF, 0x00000004⟩,
    ⟨"CE_VERIFY",    0xFFFFFFFF, 0x00000005⟩,
    ⟨"CE_COMBINE",   0xFFFFFFFF, 0x00000006⟩,
    ⟨"HC_PARSE",     0xFFFFFFFF, 0x00000010⟩,
    ⟨"HC_SERIALIZE", 0xFFFFFFFF, 0x00000011⟩ ]

/-- Whether a command word is one of a row's words. -/
def OpcodeRow.accepts (r : OpcodeRow) (cmd : Word) : Bool := cmd &&& r.mask == r.value

/-- An instruction's mnemonic, as opcode_table.json spells it. -/
def Instr.mnemonic : Instr → String
  | .nop => "NOP"
  | .ceInit => "CE_INIT"
  | .ceUpdate _ _ => "CE_UPDATE"
  | .ceFinal => "CE_FINAL"
  | .ceLoad _ => "CE_LOAD"
  | .ceVerify _ => "CE_VERIFY"
  | .ceCombine _ _ => "CE_COMBINE"
  | .hcParse _ => "HC_PARSE"
  | .hcSerialize _ => "HC_SERIALIZE"

end Sys2Proof
end

