-- ==== Sys2Proof/Machine/Operands.lean ====
section
/-! DEFINITION. The operand forms of 30_encoding.md R70 (byte lanes, checksum halves, header word, descriptor) and the
byte order of the values on the wire (20_memory.md R40 to R42). -/

namespace Sys2Proof.Machine

/-- The modulus P, fixed at 65521 (00_scope.md R11, 40_checksum_engine.md R99). -/
def modulus : Nat := 65521

/-- Byte lane i of CE_UPDATE is ARG0[8i+7:8i] (30_encoding.md R70). -/
def lane (arg0 : Word) (i : Nat) : Byte := arg0.extractLsb' (8 * i) 8

/-- The lanes CE_UPDATE folds, in ascending order, which is stream order (20_memory.md R42). -/
def lanes (len : Nat) (arg0 : Word) : List Byte := (List.range len).map (lane arg0)

/-- The S2 part of a checksum operand: hi = ARG0[31:16] (30_encoding.md R70). -/
def ckHi (ck : Word) : Half := ck.extractLsb' 16 16

/-- The S1 part of a checksum operand: lo = ARG0[15:0] (30_encoding.md R70). -/
def ckLo (ck : Word) : Half := ck.extractLsb' 0 16

/-- Both halves of a checksum operand are accumulator values; if not, CE_LOAD and CE_COMBINE raise INVALID_STATE
(40_checksum_engine.md R90, R94). -/
def ckLegal (ck : Word) : Bool := decide ((ckHi ck).toNat < modulus) && decide ((ckLo ck).toNat < modulus)

/-- The checksum value `S2 ++ S1` (10_state.md R25). -/
def ckOf (s1 s2 : Half) : Word := s2 ++ s1

/-- The four wire bytes t0 t1 t2 t3 of a checksum value, most significant first (20_memory.md R40). -/
def wireBytes (ck : Word) : List Byte :=
  [ck.extractLsb' 24 8, ck.extractLsb' 16 8, ck.extractLsb' 8 8, ck.extractLsb' 0 8]

/-- ARG0 for the wire bytes t0 t1 t2 t3: t0·2^24 + t1·2^16 + t2·2^8 + t3 (20_memory.md R42). -/
def ofWireBytes (t0 t1 t2 t3 : Byte) : Word := t0 ++ t1 ++ t2 ++ t3

/-- The header word of two wire bytes: byte0·256 + byte1 (20_memory.md R41). -/
def headerOfBytes (byte0 byte1 : Byte) : Half := byte0 ++ byte1

/-- byte0 of a header word (20_memory.md R42). -/
def headerByte0 (w : Half) : Byte := w.extractLsb' 8 8

/-- byte1 of a header word (20_memory.md R42). -/
def headerByte1 (w : Half) : Byte := w.extractLsb' 0 8

/-- The header word HC_PARSE reads: ARG0[15:0] (30_encoding.md R62). -/
def headerArg (arg0 : Word) : Half := arg0.extractLsb' 0 16

/-- The fields of a container header (30_encoding.md R68, R69), IMG's HeaderDescriptor. -/
structure Descriptor where
  method        : BitVec 4
  windowInfo    : BitVec 4
  checkBits     : BitVec 5
  hasDictionary : BitVec 1
  levelHint     : BitVec 2
  deriving DecidableEq, Repr

/-- The fields in the two wire bytes (30_encoding.md R69). -/
def Descriptor.ofBytes (byte0 byte1 : Byte) : Descriptor :=
  { method := byte0.extractLsb' 0 4
    windowInfo := byte0.extractLsb' 4 4
    checkBits := byte1.extractLsb' 0 5
    hasDictionary := byte1.extractLsb' 5 1
    levelHint := byte1.extractLsb' 6 2 }

/-- byte0 = window_info ++ method (30_encoding.md R69). -/
def Descriptor.byte0 (d : Descriptor) : Byte := d.windowInfo ++ d.method

/-- byte1 = level_hint ++ has_dictionary ++ check_bits (30_encoding.md R69). -/
def Descriptor.byte1 (d : Descriptor) : Byte := d.levelHint ++ d.hasDictionary ++ d.checkBits

/-- A descriptor in the descriptor layout of 30_encoding.md R68: HC_PARSE's RESULT. -/
def Descriptor.toWord (d : Descriptor) : Word :=
  (0 : Half) ++ d.levelHint ++ d.hasDictionary ++ d.checkBits ++ d.windowInfo ++ d.method

/-- The descriptor in an operand word, by the same layout; ARG0[31:16] is not read (30_encoding.md R68). -/
def Descriptor.ofWord (arg0 : Word) : Descriptor :=
  { method := arg0.extractLsb' 0 4
    windowInfo := arg0.extractLsb' 4 4
    checkBits := arg0.extractLsb' 8 5
    hasDictionary := arg0.extractLsb' 13 1
    levelHint := arg0.extractLsb' 14 2 }

end Sys2Proof.Machine
end

