-- ==== Sys2Proof/Config.lean ====
section
/-! DEFINITION. What an implementation of the block fixes (00_scope.md §4). The full parameter list of R18 is
ACC_WIDTH, HAS_COMBINE, CMD_LATENCY, RESET_LATENCY and BUS_BINDING; the last three are unobservable and have no
place in an untimed model (70_reset_and_hazards.md R168; log 15). -/

namespace Sys2Proof

/-- The parameters a model takes as arguments. A machine's State carries its own (log 1). -/
structure Config where
  /-- ACC_WIDTH, the width in bits of A1 and A2 (00_scope.md R8). -/
  accWidth   : Nat
  /-- HAS_COMBINE, whether CE_COMBINE exists (00_scope.md R9). -/
  hasCombine : Bool
  deriving DecidableEq, Repr

/-- The default values: ACC_WIDTH 32 (R8) and HAS_COMBINE 1 (R9). -/
def Config.default : Config := { accWidth := 32, hasCombine := true }

/-- The legal values of ACC_WIDTH are those from 18 up (00_scope.md R8). -/
abbrev Config.legal (c : Config) : Prop := 18 ≤ c.accWidth

end Sys2Proof
end

