-- ==== Sys2Proof/Machine/State.lean ====
section
/-! DEFINITION. The state of the block: the four architectural registers and the three hidden ones (10_state.md R21), the
two port outputs that are no register (30_encoding.md R60), the configuration, and what the host drives on the port.
The block has no memory, no general register and no program counter (10_state.md R28, R31). -/

namespace Sys2Proof.Machine

/-- The names of the STATUS codes (60_exceptions.md R130); `Status.code` in Flags.lean gives their numbers. -/
inductive Status where
  | ok
  | invalidMethod
  | invalidWindowInfo
  | checkConstraintViolated
  | checksumMismatch
  | illegalCommand
  | invalidState
  | unsupported
  deriving DecidableEq, Repr

/-- The hidden registers of the delayed-reduction datapath (10_state.md R29, 40_checksum_engine.md R100). -/
structure Datapath where
  /-- A1, ACC_WIDTH bits: the unreduced S1. A Nat kept below 2^ACC_WIDTH (log 8). -/
  a1  : Nat
  /-- A2, ACC_WIDTH bits: the unreduced S2. A Nat kept below 2^ACC_WIDTH (log 8). -/
  a2  : Nat
  /-- RUN, the bytes folded since the last reduction. -/
  run : Nat
  deriving DecidableEq, Repr

/-- What the host drives on the command port (30_encoding.md R60), one entry per step the block takes for it. -/
inductive HostInput where
  /-- `cmd_valid = 1` with these words, held until the block accepts them; `rst = 0`. -/
  | command (c : Command)
  /-- `rst = 1` for at least one rising edge (70_reset_and_hazards.md R160). -/
  | reset
  /-- A command is offered and `rst` rises before its response is given (70_reset_and_hazards.md R160; log 13). -/
  | interrupted (c : Command)
  deriving DecidableEq, Repr

/-- The machine's state. -/
structure State where
  /-- The parameters of this machine; no step writes them (log 1). -/
  cfg      : Config
  /-- S1 (10_state.md R22). -/
  s1       : Half
  /-- S2 (10_state.md R23). -/
  s2       : Half
  /-- RESULT, which `rsp_result` always drives (10_state.md R26). -/
  result   : Word
  /-- STATUS, which `rsp_status` always drives (10_state.md R27). -/
  status   : BitVec 4
  /-- A1, A2 and RUN (10_state.md R29). -/
  hidden   : Datapath
  /-- The port output `cmd_ready` (30_encoding.md R60). -/
  cmdReady : Bool
  /-- The port output `rsp_valid`: the last step gave a response (30_encoding.md R60). -/
  rspValid : Bool
  /-- What the host drives on the port, oldest first (log 2). -/
  inputs   : List HostInput
  deriving DecidableEq, Repr

/-- Why the machine stops with a fault: never. Every command word is executed or answered with an error STATUS, and
nothing leaves the block stuck (60_exceptions.md R145), so the type has no constructor. Safe. -/
inductive Fault
  deriving DecidableEq, Repr

/-- Why a step is refused. -/
inductive Refusal where
  /-- Raised only by an arm of `exec` whose instruction has no meaning yet. No arm is in that case. Safe. -/
  | notModelled (mnemonic : String)
  deriving DecidableEq, Repr

/-- What executing an instruction, or a step, answers. -/
abbrev Result := Host.Outcome State Fault Refusal

/-- The reset value of every register (10_state.md R32) and of `cmd_ready` and `rsp_valid`
(70_reset_and_hazards.md R160), for a machine with parameters `cfg` and with `inputs` yet to come on its port. -/
def State.resetWith (cfg : Config) (inputs : List HostInput) : State :=
  { cfg := cfg
    s1 := 1
    s2 := 0
    result := 0
    status := 0
    hidden := { a1 := 1, a2 := 0, run := 0 }
    cmdReady := false
    rspValid := false
    inputs := inputs }

/-- The machine right after reset, with the default parameters and nothing driven on its port. -/
def State.reset : State := State.resetWith Config.default []

end Sys2Proof.Machine
end

