-- ==== Sys2Proof/Machine/Arithmetic.lean ====
section
/-! DEFINITION. The arithmetic of the checksum: the one-byte fold and the checksum of a byte sequence
(40_checksum_engine.md R80 to R83), the combination of two checksums (R94), and the delayed-reduction datapath with its
run bound (R100 to R105). Everything is on natural numbers and is narrowed where a register is written. -/

namespace Sys2Proof.Machine

/-- An accumulator pair as numbers. -/
structure Accumulators where
  s1 : Nat
  s2 : Nat
  deriving DecidableEq, Repr

/-- The one-byte step `fold`: s2 adds the new s1 (40_checksum_engine.md R81). -/
def fold (a : Accumulators) (b : Byte) : Accumulators :=
  let s1 := (a.s1 + b.toNat) % modulus
  { s1 := s1, s2 := (a.s2 + s1) % modulus }

/-- `foldseq`: fold a byte sequence in stream order (40_checksum_engine.md R81). -/
def foldSeq (a : Accumulators) (bytes : List Byte) : Accumulators := bytes.foldl fold a

/-- The accumulators of a fresh sequence (40_checksum_engine.md R84). -/
def fresh : Accumulators := { s1 := 1, s2 := 0 }

/-- The checksum value of an accumulator pair: s2·65536 + s1 (10_state.md R25). -/
def Accumulators.ck (a : Accumulators) : Word := ckOf (BitVec.ofNat 16 a.s1) (BitVec.ofNat 16 a.s2)

/-- The checksum of a byte sequence (40_checksum_engine.md R83). A dictionary id is this value (R89). -/
def adler (bytes : List Byte) : Word := (foldSeq fresh bytes).ck

/-- The accumulators after CE_COMBINE: `a` is the first sequence's pair, `lo` and `hi` the second's, `n` the second's
length (40_checksum_engine.md R94). The `+ P − 1` keeps every intermediate non-negative. -/
def combine (a : Accumulators) (lo hi n : Nat) : Accumulators :=
  { s1 := (a.s1 + lo + modulus - 1) % modulus
    s2 := (a.s2 + hi + n % modulus * (a.s1 + modulus - 1)) % modulus }

/-- The largest value A2 can reach after n bytes 0xFF from A1 = A2 = 65520 (40_checksum_engine.md R102). -/
def runPeak (n : Nat) : Nat := 255 * n * (n + 1) / 2 + (n + 1) * 65520

/-- The largest m ≥ n that adds to n only powers of two below 2^k and keeps `runPeak m ≤ limit`. -/
def nmaxBits (limit : Nat) : Nat → Nat → Nat
  | 0, n => n
  | k + 1, n => nmaxBits limit k (if runPeak (n + 2 ^ k) ≤ limit then n + 2 ^ k else n)

/-- NMAX(W), the largest n with `runPeak n ≤ 2^W − 1` (40_checksum_engine.md R102), found bit by bit. -/
def nmax (width : Nat) : Nat := nmaxBits (2 ^ width - 1) width 0

/-- The additions of R100 for one byte, in registers of `width` bits, which wrap silently (R104). -/
def Datapath.addByte (width : Nat) (d : Datapath) (b : Byte) : Datapath :=
  let a1 := (d.a1 + b.toNat) % 2 ^ width
  { a1 := a1, a2 := (d.a2 + a1) % 2 ^ width, run := d.run + 1 }

/-- The reduction of R100: both accumulators modulo P, and RUN ← 0. -/
def Datapath.reduce (d : Datapath) : Datapath := { a1 := d.a1 % modulus, a2 := d.a2 % modulus, run := 0 }

/-- R100 for one byte: add, and reduce when RUN reaches NMAX (log 7). -/
def Datapath.foldByte (width : Nat) (d : Datapath) (b : Byte) : Datapath :=
  let d' := d.addByte width b
  if d'.run = nmax width then d'.reduce else d'

/-- R100 for a byte sequence. -/
def Datapath.foldBytes (width : Nat) (d : Datapath) (bytes : List Byte) : Datapath := bytes.foldl (Datapath.foldByte width) d

/-- A run that is never reduced: the design error of 40_checksum_engine.md R104, which no step of the block makes. -/
def Datapath.overrun (width : Nat) (d : Datapath) (bytes : List Byte) : Datapath := bytes.foldl (Datapath.addByte width) d

/-- The datapath holding a reduced pair, as CE_INIT, CE_LOAD and CE_COMBINE leave it (40_checksum_engine.md R100). -/
def Datapath.ofReduced (a : Accumulators) : Datapath := { a1 := a.s1, a2 := a.s2, run := 0 }

/-- What the datapath outputs: `(A1 mod P, A2 mod P)` (40_checksum_engine.md R100). -/
def Datapath.reduced (d : Datapath) : Accumulators := { s1 := d.a1 % modulus, s2 := d.a2 % modulus }

end Sys2Proof.Machine
end

