-- ==== Sys2Proof/Machine/Flags.lean ====
section
/-! DEFINITION. STATUS, the block's only condition or flag state (10_state.md R27): the codes, and the one status that a
command computes by comparing (40_checksum_engine.md R92). -/

namespace Sys2Proof.Machine

/-- STATUS[3:0] for each name (60_exceptions.md R130). Codes 8 to 15 are reserved and never written. -/
def Status.code : Status → BitVec 4
  | .ok => 0
  | .invalidMethod => 1
  | .invalidWindowInfo => 2
  | .checkConstraintViolated => 3
  | .checksumMismatch => 4
  | .illegalCommand => 5
  | .invalidState => 6
  | .unsupported => 7

/-- The status of a comparison of two 32-bit checksum values (40_checksum_engine.md R92). -/
def compareStatus (received computed : Word) : Status :=
  if received = computed then .ok else .checksumMismatch

end Sys2Proof.Machine
end

