-- ==== Sys2Proof/Machine/Ops.lean ====
section
/-! DEFINITION. The named operations on the state that the meanings share: reading and writing the accumulators, responding,
raising an error (the block's only exception, 60_exceptions.md R131), and what the port does between commands. There is no
return from an error to model: nothing is saved and nothing is restored (60_exceptions.md R137, R138). -/

namespace Sys2Proof.Machine

/-- S1 and S2 as numbers. -/
def State.acc (s : State) : Accumulators := { s1 := s.s1.toNat, s2 := s.s2.toNat }

/-- The checksum value CK = S2 ++ S1 (10_state.md R25). -/
def State.ck (s : State) : Word := ckOf s.s1 s.s2

/-- Write S1 and S2 alone. -/
def State.writeAcc (s : State) (a : Accumulators) : State :=
  { s with s1 := BitVec.ofNat 16 a.s1, s2 := BitVec.ofNat 16 a.s2 }

/-- Write S1 and S2, and set A1 and A2 to the same reduced values with RUN ← 0: what CE_INIT, CE_LOAD and CE_COMBINE do
(40_checksum_engine.md R84, R90, R94, R100). -/
def State.setAcc (s : State) (a : Accumulators) : State :=
  { s.writeAcc a with hidden := Datapath.ofReduced a }

/-- Fold bytes into S1 and S2 by R81, and into A1, A2 and RUN by R100 (40_checksum_engine.md R86). -/
def State.foldBytes (s : State) (bytes : List Byte) : State :=
  { s.writeAcc (foldSeq s.acc bytes) with hidden := s.hidden.foldBytes s.cfg.accWidth bytes }

/-- End a command: RESULT and STATUS hold its results and `rsp_valid` is raised (00_scope.md R14, 30_encoding.md R60). -/
def State.respond (s : State) (code : Status) (result : Word) : State :=
  { s with result := result, status := code.code, rspValid := true }

/-- `raise`: STATUS ← the code, RESULT ← 0, and no other register is written; the response is given as for any command
(00_scope.md R14, 60_exceptions.md R131). -/
def State.raise (s : State) (code : Status) : State := s.respond code 0

/-- The answer to a command word that decodes to no instruction (30_encoding.md R66). -/
def illegalCommand (s : State) : Result := .next (s.raise .illegalCommand)

/-- A rising edge with `rst = 1`: every register takes its reset value, whatever it held, and `cmd_ready` and `rsp_valid`
are 0 (70_reset_and_hazards.md R160). The parameters and what the host drives next are not the block's to reset. -/
def State.resetEdge (s : State) : State := State.resetWith s.cfg s.inputs

/-- Time passes with nothing accepted: the response pulse ends, `cmd_ready` is raised, and RESULT and STATUS keep their
values (30_encoding.md R60, 70_reset_and_hazards.md R161; log 3, log 5, log 6). -/
def State.wait (s : State) : State := { s with cmdReady := true, rspValid := false }

/-- The first of the host's inputs is taken. -/
def State.taking (s : State) (rest : List HostInput) : State := { s with inputs := rest }

/-- `s` ready to accept, with `c` the next thing the host offers. -/
def State.offered (s : State) (c : Command) : State := { s with cmdReady := true, inputs := .command c :: s.inputs }

end Sys2Proof.Machine
end

