-- ==== Sys2Proof/Machine/ChecksumEngine.lean ====
section
/-! DEFINITION. NOP and the commands of the checksum unit (40_checksum_engine.md §2). The decoding checks of 30_encoding.md
R64 have passed before a meaning runs. -/

namespace Sys2Proof.Machine

/-- NOP: STATUS ← OK; RESULT and the accumulators keep their values (40_checksum_engine.md R82). -/
def execNop (s : State) : Result := .next (s.respond .ok s.result)

/-- CE_INIT: start a fresh sequence (40_checksum_engine.md R84). -/
def execCeInit (s : State) : Result := .next ((s.setAcc fresh).respond .ok fresh.ck)

/-- CE_UPDATE: fold LEN byte lanes of ARG0 in ascending order (40_checksum_engine.md R86). A LEN above 4 is stopped at decode
and never comes here (log 11). -/
def execCeUpdate (len : BitVec 3) (arg0 : Word) (s : State) : Result :=
  let s' := s.foldBytes (lanes len.toNat arg0)
  .next (s'.respond .ok s'.ck)

/-- CE_FINAL: read the checksum value; nothing is consumed (40_checksum_engine.md R88). -/
def execCeFinal (s : State) : Result := .next (s.respond .ok s.ck)

/-- CE_LOAD: restore a saved state (40_checksum_engine.md R90). -/
def execCeLoad (arg0 : Word) (s : State) : Result :=
  if ckLegal arg0 then
    .next ((s.setAcc { s1 := (ckLo arg0).toNat, s2 := (ckHi arg0).toNat }).respond .ok arg0)
  else .next (s.raise .invalidState)

/-- CE_VERIFY: compare a received trailer with the checksum value; RESULT is the checksum value either way
(40_checksum_engine.md R92). -/
def execCeVerify (arg0 : Word) (s : State) : Result := .next (s.respond (compareStatus arg0 s.ck) s.ck)

/-- CE_COMBINE: append a separately checksummed sequence (40_checksum_engine.md R94). UNSUPPORTED comes before the operand
check (60_exceptions.md R134; log 9). -/
def execCeCombine (arg0 arg1 : Word) (s : State) : Result :=
  if s.cfg.hasCombine then
    if ckLegal arg0 then
      let s' := s.setAcc (combine s.acc (ckLo arg0).toNat (ckHi arg0).toNat arg1.toNat)
      .next (s'.respond .ok s'.ck)
    else .next (s.raise .invalidState)
  else .next (s.raise .unsupported)

end Sys2Proof.Machine
end

