-- ==== Sys2Proof/Machine/HeaderCodec.lean ====
section
/-! DEFINITION. The header constraints and the commands of the header codec unit (41_header_codec.md). The unit holds no
state: both commands are functions of ARG0 (10_state.md R30). -/

namespace Sys2Proof.Machine

/-- The one valid method (41_header_codec.md R111, R118). -/
def validMethod : Nat := 8

/-- The largest valid window_info (41_header_codec.md R111). -/
def maxWindowInfo : Nat := 7

/-- The check constraint: the header word is a multiple of 31 (41_header_codec.md R110). -/
def checkConstraint (w : Half) : Bool := w.toNat % 31 == 0

/-- The window size in bytes that window_info stands for, with method 8 (41_header_codec.md R111). The block does not output
it; the host computes it (92_eei_decisions.md D25). -/
def windowBytes (windowInfo : BitVec 4) : Nat := 2 ^ (windowInfo.toNat + 8)

/-- Method, then window_info: the checks that HC_PARSE and HC_SERIALIZE share, in their order (60_exceptions.md R135). -/
def fieldError (d : Descriptor) : Option Status :=
  if d.method.toNat ≠ validMethod then some .invalidMethod
  else if maxWindowInfo < d.windowInfo.toNat then some .invalidWindowInfo
  else none

/-- HC_PARSE's three checks and its descriptor (41_header_codec.md R112). -/
def parseHeader (w : Half) : Except Status Descriptor :=
  let d := Descriptor.ofBytes (headerByte0 w) (headerByte1 w)
  match fieldError d with
  | some e => .error e
  | none => if checkConstraint w then .ok d else .error .checkConstraintViolated

/-- The header word of the fields with check_bits = 0: the `base` of 41_header_codec.md R114. -/
def headerBase (d : Descriptor) : Nat :=
  (headerOfBytes d.byte0 ({ d with checkBits := 0 } : Descriptor).byte1).toNat

/-- The smallest check_bits that satisfies the constraint: the `fc` of 41_header_codec.md R114. -/
def checkBitsFor (base : Nat) : Nat := (31 - base % 31) % 31

/-- HC_SERIALIZE's two checks and its header word; check_bits of the input is not read (41_header_codec.md R114). -/
def serializeHeader (d : Descriptor) : Except Status Half :=
  match fieldError d with
  | some e => .error e
  | none => .ok (BitVec.ofNat 16 (headerBase d + checkBitsFor (headerBase d)))

/-- HC_PARSE (41_header_codec.md R112). -/
def execHcParse (arg0 : Word) (s : State) : Result :=
  match parseHeader (headerArg arg0) with
  | .ok d => .next (s.respond .ok d.toWord)
  | .error e => .next (s.raise e)

/-- HC_SERIALIZE (41_header_codec.md R114). -/
def execHcSerialize (arg0 : Word) (s : State) : Result :=
  match serializeHeader (Descriptor.ofWord arg0) with
  | .ok w => .next (s.respond .ok (w.zeroExtend 32))
  | .error e => .next (s.raise e)

end Sys2Proof.Machine
end

