-- ==== Sys2Proof/Machine/Dispatch.lean ====
section
/-! DEFINITION. The meaning of each instruction, one arm per constructor of Instr (30_encoding.md R63). -/

namespace Sys2Proof.Machine

def exec (i : Instr) (s : State) : Host.Outcome State Fault Refusal :=
  match i with
  | .nop => Sys2Proof.Machine.execNop s
  | .ceInit => Sys2Proof.Machine.execCeInit s
  | .ceUpdate len arg0 => Sys2Proof.Machine.execCeUpdate len arg0 s
  | .ceFinal => Sys2Proof.Machine.execCeFinal s
  | .ceLoad arg0 => Sys2Proof.Machine.execCeLoad arg0 s
  | .ceVerify arg0 => Sys2Proof.Machine.execCeVerify arg0 s
  | .ceCombine arg0 arg1 => Sys2Proof.Machine.execCeCombine arg0 arg1 s
  | .hcParse arg0 => Sys2Proof.Machine.execHcParse arg0 s
  | .hcSerialize arg0 => Sys2Proof.Machine.execHcSerialize arg0 s

end Sys2Proof.Machine
end

