-- ==== Sys2Proof/Machine/Port.lean ====
section
/-! DEFINITION. The command port: what the block does with what the host drives on it (30_encoding.md R60, R64). -/

namespace Sys2Proof.Machine

/-- An accepted command: decode it, and run its meaning or raise ILLEGAL_COMMAND (30_encoding.md R64, R66). -/
def runCommand (c : Command) (s : State) : Result :=
  match decode c with
  | .ok i => exec i s
  | .error _ => illegalCommand s

/-- A command is offered, with `rest` the host's inputs after it. It is accepted only while `cmd_ready` is 1; until then
the host holds it on the port (30_encoding.md R60). -/
def offerCommand (c : Command) (rest : List HostInput) (s : State) : Result :=
  if s.cmdReady then runCommand c (s.taking rest) else .next s.wait

/-- `rst` is asserted, with `rest` the host's inputs after it. A command in flight leaves no trace, since every register is
set (70_reset_and_hazards.md R160, 93_implementation_defined.md I11). -/
def assertReset (rest : List HostInput) (s : State) : Result := .next (s.taking rest).resetEdge

end Sys2Proof.Machine
end

