-- ==== Sys2Proof/Machine/Step.lean ====
section
/-! DEFINITION. One step of the block: one command (20_memory.md R44, 70_reset_and_hazards.md R168), one reset, or the
passing of time with nothing accepted (30_encoding.md R60). -/

namespace Sys2Proof.Machine

/-- One step, on the first of the host's inputs. -/
def step (s : State) : Host.Outcome State Fault Refusal :=
  match s.inputs with
  | [] => .next s.wait
  | .command c :: rest => offerCommand c rest s
  | .reset :: rest => assertReset rest s
  | .interrupted _ :: rest => assertReset rest s

/-- `s` ready to accept, with the row's word the next command the host offers (log 2, log 12). -/
def State.withFetchWord (s : State) (nbits w : Nat) : State := s.offered (Command.ofBits nbits w)

end Sys2Proof.Machine
end

