-- ==== Sys2Proof/Machine/Assembler.lean ====
section
/-! DEFINITION. The assembly syntax of 30_encoding.md R71 and the pseudo-instructions of R72. An assembled line is a list of
transfers on the command port; none of this adds to what the block does (92_eei_decisions.md D24). -/

namespace Sys2Proof.Machine

/-- One line of assembly, its numbers not yet checked. -/
inductive Asm where
  | nop
  | ceInit
  | ceUpdate (len a0 : Nat)
  | ceFinal
  | ceLoad (a0 : Nat)
  | ceVerify (a0 : Nat)
  | ceCombine (a0 a1 : Nat)
  | hcParse (a0 : Nat)
  | hcSerialize (a0 : Nat)
  /-- `ce.fold`: fold a byte string (R72). -/
  | ceFold (bytes : List Byte)
  /-- `ce.save` is `ce.final` (R72). -/
  | ceSave
  /-- `ce.restore a0` is `ce.load a0` (R72). -/
  | ceRestore (a0 : Nat)
  deriving DecidableEq, Repr

/-- An operand word, refused where it does not fit in 32 bits (R71). -/
def word32 (n : Nat) : Option Word := if n < 2 ^ 32 then some (BitVec.ofNat 32 n) else none

/-- A byte string as operand lanes: byte i in lane i, the lanes above it 0 (R72). -/
def packLanes : List Byte → Word
  | [] => 0
  | b :: rest => packLanes rest <<< 8 ||| b.zeroExtend 32

/-- The CE_UPDATE that folds these (at most 4) bytes. -/
def updateOf (bytes : List Byte) : Instr := .ceUpdate (BitVec.ofNat 3 bytes.length) (packLanes bytes)

/-- `ce.fold`: ⌈k/4⌉ CE_UPDATE commands of 4 bytes each, the last with what is left; none for the empty string (R72). -/
def foldInstrs : List Byte → List Instr
  | b0 :: b1 :: b2 :: b3 :: rest => updateOf [b0, b1, b2, b3] :: foldInstrs rest
  | [] => []
  | bytes => [updateOf bytes]

/-- The instructions a line stands for, or none where the assembler refuses it (R71, R72). -/
def Asm.instrs : Asm → Option (List Instr)
  | .nop => some [.nop]
  | .ceInit => some [.ceInit]
  | .ceUpdate len a0 =>
    if len ≤ 4 then (word32 a0).map fun a => [.ceUpdate (BitVec.ofNat 3 len) a] else none
  | .ceFinal => some [.ceFinal]
  | .ceLoad a0 => (word32 a0).map fun a => [.ceLoad a]
  | .ceVerify a0 => (word32 a0).map fun a => [.ceVerify a]
  | .ceCombine a0 a1 =>
    match word32 a0, word32 a1 with
    | some a, some b => some [.ceCombine a b]
    | _, _ => none
  | .hcParse a0 => (word32 a0).map fun a => [.hcParse a]
  | .hcSerialize a0 => (word32 a0).map fun a => [.hcSerialize a]
  | .ceFold bytes => some (foldInstrs bytes)
  | .ceSave => some [.ceFinal]
  | .ceRestore a0 => (word32 a0).map fun a => [.ceLoad a]

/-- The transfers a line assembles to. -/
def Asm.assemble (line : Asm) : Option (List Command) := line.instrs.map (List.map encode)

/-- The value of a digit, decimal or hexadecimal of either case (log 14). -/
def digitValue (c : Char) : Option Nat :=
  let n := c.toNat
  if 48 ≤ n ∧ n ≤ 57 then some (n - 48)
  else if 97 ≤ n ∧ n ≤ 102 then some (n - 87)
  else if 65 ≤ n ∧ n ≤ 70 then some (n - 55)
  else none

/-- Digits in a base, after the value `acc`. -/
def digitsFrom (base : Nat) : Nat → List Char → Option Nat
  | acc, [] => some acc
  | acc, c :: rest =>
    match digitValue c with
    | some d => if d < base then digitsFrom base (acc * base + d) rest else none
    | none => none

/-- A number is decimal or `0x` hexadecimal (R71). -/
def parseNumber : List Char → Option Nat
  | [] => none
  | ['0', 'x'] => none
  | '0' :: 'x' :: digits => digitsFrom 16 0 digits
  | digits => digitsFrom 10 0 digits

/-- Drop leading blanks. -/
def dropBlanks (cs : List Char) : List Char := cs.dropWhile (· == ' ')

/-- Drop blanks at both ends. -/
def trim (cs : List Char) : List Char := (dropBlanks (dropBlanks cs).reverse).reverse

/-- Cut at every comma. -/
def splitCommas : List Char → List (List Char)
  | [] => [[]]
  | c :: rest =>
    match splitCommas rest with
    | [] => [[c]]
    | piece :: pieces => if c == ',' then [] :: piece :: pieces else (c :: piece) :: pieces

/-- All of a list's values, or none if one is missing. -/
def allSome {α : Type} : List (Option α) → Option (List α)
  | [] => some []
  | none :: _ => none
  | some x :: rest => (allSome rest).map (x :: ·)

/-- Operands separated by commas (R71). -/
def parseOperands (cs : List Char) : Option (List Nat) :=
  match trim cs with
  | [] => some []
  | text => allSome ((splitCommas text).map fun piece => parseNumber (trim piece))

/-- A number as a byte. -/
def byteOf (n : Nat) : Option Byte := if n < 256 then some (BitVec.ofNat 8 n) else none

/-- The operand of `ce.fold`: a quoted string, each character one byte, or a list of byte values (R72, log 14). -/
def parseBytes (cs : List Char) : Option (List Byte) :=
  match trim cs with
  | '"' :: quoted =>
    match quoted.reverse with
    | '"' :: body => if body.contains '"' then none else allSome (body.reverse.map fun c => byteOf c.toNat)
    | _ => none
  | text =>
    match parseOperands text with
    | some ns => if ns = [] then none else allSome (ns.map byteOf)
    | none => none

/-- The mnemonics of R71 and R72, in lower case. -/
def parseLine (cs : List Char) : Option Asm :=
  let line := trim cs
  let name := String.ofList (line.takeWhile (· != ' '))
  let rest := line.dropWhile (· != ' ')
  if name = "ce.fold" then (parseBytes rest).map .ceFold
  else
    match parseOperands rest with
    | some [] =>
      if name = "nop" then some .nop
      else if name = "ce.init" then some .ceInit
      else if name = "ce.final" then some .ceFinal
      else if name = "ce.save" then some .ceSave
      else none
    | some [a0] =>
      if name = "ce.load" then some (.ceLoad a0)
      else if name = "ce.verify" then some (.ceVerify a0)
      else if name = "hc.parse" then some (.hcParse a0)
      else if name = "hc.serialize" then some (.hcSerialize a0)
      else if name = "ce.restore" then some (.ceRestore a0)
      else none
    | some [a0, a1] =>
      if name = "ce.update" then some (.ceUpdate a0 a1)
      else if name = "ce.combine" then some (.ceCombine a0 a1)
      else none
    | _ => none

/-- A line of text to the transfers it assembles to. -/
def assembleLine (cs : List Char) : Option (List Command) :=
  match parseLine cs with
  | some line => line.assemble
  | none => none

end Sys2Proof.Machine
end

