-- ==== Sys2Proof/Safety.lean ====
section
/-! DEFINITION. The terms in which claims about the block are made: the invariant, frames, what a response is, runs and what
they show. -/

namespace Sys2Proof.Machine

/-- The datapath is inside a run that cannot overflow: fewer than NMAX bytes since the last reduction, and accumulators no
larger than that many bytes 0xFF make them from 65520 (40_checksum_engine.md R101, R102, R105). -/
structure Datapath.InBounds (width : Nat) (d : Datapath) : Prop where
  run_lt : d.run < nmax width
  a1_le  : d.a1 ≤ 65520 + 255 * d.run
  a2_le  : d.a2 ≤ runPeak d.run

/-- What holds at every command boundary: the parameters are legal (00_scope.md R8), the accumulators are reduced
(10_state.md R24), STATUS holds a code that exists (10_state.md R27), and the hidden registers stand for the accumulators
(10_state.md R29) within the run bound. -/
structure State.Inv (s : State) : Prop where
  cfg_legal : s.cfg.legal
  s1_lt     : s.s1.toNat < modulus
  s2_lt     : s.s2.toNat < modulus
  status_le : s.status.toNat ≤ 7
  bounded   : s.hidden.InBounds s.cfg.accWidth
  s1_eq     : s.s1.toNat = s.hidden.a1 % modulus
  s2_eq     : s.s2.toNat = s.hidden.a2 % modulus

/-- S1, S2 and the hidden registers are the same. That a command which folds nothing leaves A1, A2 and RUN unreduced is the
model's choice (log 7). -/
def SameChecksum (s t : State) : Prop := t.s1 = s.s1 ∧ t.s2 = s.s2 ∧ t.hidden = s.hidden

/-- The parameters, `cmd_ready` and the host's remaining inputs are the same. -/
def SameEnvironment (s t : State) : Prop := t.cfg = s.cfg ∧ t.cmdReady = s.cmdReady ∧ t.inputs = s.inputs

/-- The response of a command: `rsp_valid`, RESULT and STATUS (30_encoding.md R60). -/
def Responds (t : State) (result : Word) (status : BitVec 4) : Prop :=
  t.rspValid = true ∧ t.result = result ∧ t.status = status

/-- A response with no other effect: all that an error does (60_exceptions.md R131), and all that NOP and the header codec do
(40_checksum_engine.md R82, 10_state.md R30). -/
def OnlyReports (s t : State) (result : Word) (status : BitVec 4) : Prop :=
  SameChecksum s t ∧ SameEnvironment s t ∧ Responds t result status

/-- The accumulators hold `s1` and `s2`, and A1, A2 hold the same with RUN = 0 (40_checksum_engine.md R100). -/
def HoldsReduced (t : State) (s1 s2 : Nat) : Prop :=
  t.s1.toNat = s1 ∧ t.s2.toNat = s2 ∧ t.hidden = { a1 := s1, a2 := s2, run := 0 }

/-- A header word is valid: method 8, window_info at most 7, a multiple of 31 (41_header_codec.md R111). -/
def ValidHeader (w : Half) : Prop :=
  w.toNat / 256 % 16 = 8 ∧ w.toNat / 4096 ≤ 7 ∧ w.toNat % 31 = 0

/-- A ready block is offered the command `c`, with `rest` the host's inputs after it: the command is accepted
(30_encoding.md R60). -/
def Offers (s : State) (c : Command) (rest : List HostInput) : Prop :=
  s.cmdReady = true ∧ s.inputs = .command c :: rest

/-- The illegal command words (30_encoding.md R66): OPC = CMD[7:0], LEN = CMD[10:8], RSV = CMD[31:11]. -/
def Illegal (cmd : Word) : Prop :=
  cmd.toNat % 256 ∉ [0x00, 0x01, 0x02, 0x03, 0x04, 0x05, 0x06, 0x10, 0x11] ∨
  cmd.toNat / 2048 ≠ 0 ∨
  (cmd.toNat % 256 ≠ 0x02 ∧ cmd.toNat / 256 % 8 ≠ 0) ∨
  (cmd.toNat % 256 = 0x02 ∧ 5 ≤ cmd.toNat / 256 % 8)

/-- Two pairs of operand words agree on every bit that the command reads (30_encoding.md R62). -/
def SameReadBits (cmd a0 a1 b0 b1 : Word) : Prop :=
  match cmd.toNat % 256 with
  | 0x02 => a0.toNat % 256 ^ (cmd.toNat / 256 % 8) = b0.toNat % 256 ^ (cmd.toNat / 256 % 8)
  | 0x04 | 0x05 => a0 = b0
  | 0x06 => a0 = b0 ∧ a1 = b1
  | 0x10 => a0.toNat % 2 ^ 16 = b0.toNat % 2 ^ 16
  | 0x11 => a0.toNat % 2 ^ 8 = b0.toNat % 2 ^ 8 ∧ a0.toNat / 2 ^ 13 % 8 = b0.toNat / 2 ^ 13 % 8
  | _ => True

/-- Bytes 0 to len − 1 of an operand word, the least significant first (30_encoding.md R70). -/
def bytesOf (len : Nat) (arg0 : Word) : List Byte := (List.range len).map fun i => BitVec.ofNat 8 (arg0.toNat / 256 ^ i)

/-- The code that a command reports: the first of the causes of 60_exceptions.md R130 that applies, in the order of R134 and
R135, in terms of the bits of its words and the state before it. -/
def reportedCode (s : State) (c : Command) : Nat :=
  let opc := c.cmd.toNat % 256
  let len := c.cmd.toNat / 256 % 8
  let badHalf := 65521 ≤ c.arg0.toNat / 65536 ∨ 65521 ≤ c.arg0.toNat % 65536
  if opc ∉ [0x00, 0x01, 0x02, 0x03, 0x04, 0x05, 0x06, 0x10, 0x11] ∨ c.cmd.toNat / 2048 ≠ 0 ∨
      (opc ≠ 2 ∧ len ≠ 0) ∨ (opc = 2 ∧ 5 ≤ len) then 5
  else if opc = 0x06 ∧ s.cfg.hasCombine = false then 7
  else if (opc = 0x04 ∨ opc = 0x06) ∧ badHalf then 6
  else if opc = 0x10 ∧ c.arg0.toNat / 256 % 16 ≠ 8 then 1
  else if opc = 0x10 ∧ 7 < c.arg0.toNat / 4096 % 16 then 2
  else if opc = 0x10 ∧ c.arg0.toNat % 65536 % 31 ≠ 0 then 3
  else if opc = 0x11 ∧ c.arg0.toNat % 16 ≠ 8 then 1
  else if opc = 0x11 ∧ 7 < c.arg0.toNat / 16 % 16 then 2
  else if opc = 0x05 ∧ c.arg0.toNat ≠ s.s2.toNat * 65536 + s.s1.toNat then 4
  else 0

/-- Instructions executed one after another; the first that does not answer a next state ends the run. -/
def execAll : List Instr → State → Result
  | [], s => .next s
  | i :: rest, s =>
    match exec i s with
    | .next t => execAll rest t
    | .fault r => .fault r
    | .refused r => .refused r

/-- Accepted commands run one after another, the host's later inputs left out (20_memory.md R49). -/
def runCommands : List Command → State → Result
  | [], s => .next s
  | c :: rest, s =>
    match runCommand c s with
    | .next t => runCommands rest t
    | .fault r => .fault r
    | .refused r => .refused r

/-- A run of `n` steps is safe when no step faults or is refused. -/
def SafeRun : Nat → State → Prop
  | 0, _ => True
  | n + 1, s => ∃ t, step s = .next t ∧ SafeRun n t

/-- A response as the host reads it (10_state.md R26, R27). -/
structure Response where
  result : Word
  status : BitVec 4
  deriving DecidableEq, Repr

/-- The responses that `n` steps give, in order (92_eei_decisions.md D27). -/
def responses : Nat → State → List Response
  | 0, _ => []
  | n + 1, s =>
    match step s with
    | .next t => (if t.rspValid then [⟨t.result, t.status⟩] else []) ++ responses n t
    | _ => []

/-- The responses of accepted commands, each read after its own command (20_memory.md R49). -/
def commandResponses : List Command → State → List Response
  | [], _ => []
  | c :: rest, s =>
    match runCommand c s with
    | .next t => ⟨t.result, t.status⟩ :: commandResponses rest t
    | _ => []

/-- The state after `n` steps. -/
def stateAfter : Nat → State → State
  | 0, s => s
  | n + 1, s =>
    match step s with
    | .next t => stateAfter n t
    | _ => s

/-- The observation of a run: its responses and the final S1 and S2 (92_eei_decisions.md D27). -/
def observe (n : Nat) (s : State) : List Response × Half × Half :=
  (responses n s, (stateAfter n s).s1, (stateAfter n s).s2)

end Sys2Proof.Machine
end

