-- ==== Sys2Proof/Certificates/Slice0/Obligations.lean ====
section
/-! DEFINITION. The statements about the block, most of them a numbered rule of spec/. Numbers stand for bit fields
(`x.toNat / 2 ^ k % 2 ^ w`) and STATUS codes stand as 60_exceptions.md R130 numbers them, so that a statement does not
repeat the definition it is about. -/

open Sys2Proof Sys2Proof.Machine

/-! ## Encoding -/

/-- A few command words, written out from the field table of 30_encoding.md R61 and the opcode map of R63, decode to the
instructions they stand for. -/
def Obligations.SampleCommandWordsDecode : Prop :=
  decode ⟨0x00000000, 5, 6⟩ = .ok .nop ∧
  decode ⟨0x00000001, 5, 6⟩ = .ok .ceInit ∧
  decode ⟨0x00000302, 0x00636261, 6⟩ = .ok (.ceUpdate 3 0x00636261) ∧
  decode ⟨0x00000003, 5, 6⟩ = .ok .ceFinal ∧
  decode ⟨0x00000004, 0x024D0127, 6⟩ = .ok (.ceLoad 0x024D0127) ∧
  decode ⟨0x00000005, 0x27014D02, 6⟩ = .ok (.ceVerify 0x27014D02) ∧
  decode ⟨0x00000006, 0x06280204, 5⟩ = .ok (.ceCombine 0x06280204 5) ∧
  decode ⟨0x00000010, 0x0000789C, 6⟩ = .ok (.hcParse 0x0000789C) ∧
  decode ⟨0x00000011, 0x00009C78, 6⟩ = .ok (.hcSerialize 0x00009C78)

/-- Every well-formed instruction, with every value of its operands, is what its encoding decodes to
(30_encoding.md R61, R63, R64). -/
def Obligations.DecodeOfEncodeIsTheInstruction : Prop :=
  ∀ i : Instr, i.wf = true → decode (encode i) = .ok i

/-- The other direction: what decodes is well formed, its encoding has the same CMD, and it holds the operand words that its
rule reads (30_encoding.md R61, R64, R70). -/
def Obligations.EncodeOfDecodeIsTheCommand : Prop :=
  ∀ (c : Command) (i : Instr), decode c = .ok i →
    i.wf = true ∧ (encode i).cmd = c.cmd ∧
    match i with
    | .nop | .ceInit | .ceFinal => True
    | .ceUpdate len a => len.toNat = c.cmd.toNat / 256 % 8 ∧ a = c.arg0
    | .ceLoad a | .ceVerify a | .hcParse a | .hcSerialize a => a = c.arg0
    | .ceCombine a b => a = c.arg0 ∧ b = c.arg1

/-- The decoder accepts exactly the words of opcode_table.json, with LEN at most 4 in CE_UPDATE's, gives each the row's
instruction, and no word belongs to two rows (30_encoding.md R63). -/
def Obligations.DecoderAcceptsExactlyTheOpcodeTable : Prop :=
  (∀ c : Command, (∃ i, decode c = .ok i) ↔
    ∃ r ∈ opcodeTable, r.accepts c.cmd = true ∧ (r.mnemonic = "CE_UPDATE" → c.cmd.toNat / 256 % 8 ≤ 4)) ∧
  (∀ (c : Command) (i : Instr), decode c = .ok i → ∀ r ∈ opcodeTable, r.accepts c.cmd = true → r.mnemonic = i.mnemonic) ∧
  (∀ cmd : Word, ∀ r ∈ opcodeTable, ∀ r' ∈ opcodeTable, r.accepts cmd = true → r'.accepts cmd = true → r = r')

/-- The illegal command words of 30_encoding.md R66, and only they, fail to decode; each raises ILLEGAL_COMMAND and changes
nothing else. The all-zero word is NOP, and without HAS_COMBINE a legal CE_COMBINE word raises UNSUPPORTED. -/
def Obligations.IllegalCommandWordsOnlyReportIllegalCommand : Prop :=
  (∀ c : Command, Illegal c.cmd ↔ ∃ e, decode c = .error e) ∧
  (∀ (s : State) (c : Command) (rest : List HostInput), Offers s c rest → Illegal c.cmd →
    ∃ t, step s = .next t ∧ OnlyReports (s.taking rest) t 0 5) ∧
  (∀ a0 a1 : Word, decode ⟨0, a0, a1⟩ = .ok .nop) ∧
  (∀ (s : State) (a0 a1 : Word) (rest : List HostInput), Offers s ⟨6, a0, a1⟩ rest → s.cfg.hasCombine = false →
    ∃ t, step s = .next t ∧ OnlyReports (s.taking rest) t 0 7)

/-- A command reads only the operand bits its rule names (30_encoding.md R62): the others change neither its effect nor its
report. The RSV and LEN bits of CMD are checked. -/
def Obligations.UnreadOperandBitsAreIgnored : Prop :=
  (∀ (cmd a0 a1 b0 b1 : Word) (s : State),
    SameReadBits cmd a0 a1 b0 b1 → runCommand ⟨cmd, a0, a1⟩ s = runCommand ⟨cmd, b0, b1⟩ s) ∧
  (∀ c : Command, (c.cmd.toNat / 2048 ≠ 0 ∨ (c.cmd.toNat % 256 ≠ 2 ∧ c.cmd.toNat / 256 % 8 ≠ 0)) → ∃ e, decode c = .error e)

/-! ## The step -/

/-- A step on an accepted command that decodes is `exec` of the instruction, at the state with the command taken off the
host's inputs; one on a word that does not decode raises ILLEGAL_COMMAND there; and `withFetchWord` makes the very next step
run its word (30_encoding.md R60, R64). -/
def Obligations.StepRunsTheDecodedInstruction : Prop :=
  (∀ (s : State) (c : Command) (rest : List HostInput) (i : Instr), Offers s c rest → decode c = .ok i →
    step s = exec i (s.taking rest)) ∧
  (∀ (s : State) (c : Command) (rest : List HostInput) (e : DecodeError), Offers s c rest → decode c = .error e →
    step s = .next ((s.taking rest).raise .illegalCommand)) ∧
  (∀ (s : State) (nbits w : Nat) (i : Instr), decodeTableWord nbits w = some i →
    step (s.withFetchWord nbits w) = exec i { s with cmdReady := true })

/-- With no command accepted the registers keep their values, `rsp_valid` is 0 and `cmd_ready` is raised: when nothing is
driven, and when a command is offered before the block is ready, which the host then goes on offering (30_encoding.md R60,
70_reset_and_hazards.md R161). That one step stands for the open waiting time is the model's own choice (log 3, log 6). -/
def Obligations.WaitingKeepsEveryRegister : Prop :=
  ∀ s : State, (s.inputs = [] ∨ (s.cmdReady = false ∧ ∃ c rest, s.inputs = .command c :: rest)) →
    ∃ t, step s = .next t ∧ SameChecksum s t ∧ t.cfg = s.cfg ∧ t.inputs = s.inputs ∧
      t.result = s.result ∧ t.status = s.status ∧ t.cmdReady = true ∧ t.rspValid = false

/-- Every step answers a next state, and every accepted command completes with exactly one response, after which the block
is ready for the next (60_exceptions.md R145). -/
def Obligations.EveryAcceptedCommandResponds : Prop :=
  (∀ s : State, ∃ t, step s = .next t) ∧
  (∀ (s : State) (c : Command) (rest : List HostInput), Offers s c rest →
    ∃ t, step s = .next t ∧ t.rspValid = true ∧ t.cmdReady = true ∧ t.inputs = rest ∧ t.cfg = s.cfg)

/-- Commands issued to a ready block are answered in issue order, one response each; the state after each is a function of
the state before it and of its own words, and nothing the host drives afterwards affects it (20_memory.md R49). -/
def Obligations.CommandsAreAnsweredInOrderOneResponseEach : Prop :=
  ∀ (cs : List Command) (rest : List HostInput) (s : State), s.cmdReady = true →
    responses cs.length (s.taking (cs.map .command ++ rest)) = commandResponses cs s ∧
    (commandResponses cs s).length = cs.length ∧
    ∃ t, runCommands cs s = .next t ∧ stateAfter cs.length (s.taking (cs.map .command ++ rest)) = t.taking rest

/-! ## Reset -/

/-- The reset values of 10_state.md R32. -/
def Obligations.ResetValuesAreTheSpecs : Prop :=
  State.reset.s1 = 1 ∧ State.reset.s2 = 0 ∧ State.reset.result = 0 ∧ State.reset.status = 0 ∧
  State.reset.hidden = { a1 := 1, a2 := 0, run := 0 } ∧
  ∃ t, exec .ceFinal State.reset = .next t ∧ t.result = 0x00000001

/-- One step with `rst = 1` puts every register at its reset value, drives `cmd_ready` and `rsp_valid` to 0, and discards a
command in flight without a response or an effect (70_reset_and_hazards.md R160). -/
def Obligations.AssertingResetLoadsTheResetValues : Prop :=
  ∀ (s : State) (rest : List HostInput),
    (s.inputs = .reset :: rest ∨ ∃ c, s.inputs = .interrupted c :: rest) →
    ∃ t, step s = .next t ∧ HoldsReduced t 1 0 ∧ t.result = 0 ∧ t.status = 0 ∧
      t.cmdReady = false ∧ t.rspValid = false ∧ t.inputs = rest ∧ t.cfg = s.cfg

/-- Whatever happened before, CE_FINAL after reset is the first command to respond and returns 0x00000001
(70_reset_and_hazards.md R162). That the block becomes ready in one step is the model's own choice (log 3). -/
def Obligations.FinalAfterResetReturnsOne : Prop :=
  ∀ (s : State) (a0 a1 : Word) (rest : List HostInput),
    responses 3 (s.taking (.reset :: .command ⟨0x00000003, a0, a1⟩ :: rest)) = [⟨0x00000001, 0⟩]

/-! ## The commands of the checksum unit -/

/-- NOP (40_checksum_engine.md R82). -/
def Obligations.NopWritesOnlyStatus : Prop :=
  (∀ a0 a1 : Word, decode ⟨0x00000000, a0, a1⟩ = .ok .nop) ∧
  (∀ c : Command, c.cmd.toNat % 256 = 0 → c.cmd ≠ 0 → ∃ e, decode c = .error e) ∧
  ∀ s : State, ∃ t, exec .nop s = .next t ∧ OnlyReports s t s.result 0

/-- CE_INIT (40_checksum_engine.md R84). -/
def Obligations.InitStartsAFreshSequence : Prop :=
  (∀ a0 a1 : Word, decode ⟨0x00000001, a0, a1⟩ = .ok .ceInit) ∧
  ∀ s : State, ∃ t, exec .ceInit s = .next t ∧ HoldsReduced t 1 0 ∧ SameEnvironment s t ∧ Responds t 0x00000001 0

/-- CE_INIT then CE_FINAL returns 1, the checksum of the empty sequence (40_checksum_engine.md R85). -/
def Obligations.FinalAfterInitReturnsOne : Prop :=
  ∀ s : State, ∃ t, execAll [.ceInit, .ceFinal] s = .next t ∧ Responds t 0x00000001 0 ∧ adler [] = 0x00000001

/-- The one-byte step, the fold of a sequence, and IMG's two values (40_checksum_engine.md R81, R83). -/
def Obligations.FoldAddsTheNewS1IntoS2 : Prop :=
  (∀ (s1 s2 : Nat) (b : Byte),
    fold ⟨s1, s2⟩ b = ⟨(s1 + b.toNat) % 65521, (s2 + (s1 + b.toNat) % 65521) % 65521⟩) ∧
  (∀ a : Accumulators, foldSeq a [] = a) ∧
  (∀ (a : Accumulators) (b : Byte) (bytes : List Byte), foldSeq a (b :: bytes) = foldSeq (fold a b) bytes) ∧
  (∀ bytes : List Byte, (adler bytes).toNat = (foldSeq ⟨1, 0⟩ bytes).s2 * 65536 + (foldSeq ⟨1, 0⟩ bytes).s1) ∧
  adler [] = 0x00000001 ∧
  adler [0x57, 0x69, 0x6B, 0x69, 0x70, 0x65, 0x64, 0x69, 0x61] = 0x11E60398

/-- CE_UPDATE folds lanes 0 to LEN − 1 of ARG0 in that order; LEN 5 to 7 and a nonzero RSV do not decode
(40_checksum_engine.md R86, 30_encoding.md R65). That A1, A2 and RUN follow the pseudocode of R100, with a reduction when RUN
reaches NMAX and at no other time, is the model's own choice (log 7): R100 lets an implementation reduce at any other time. -/
def Obligations.UpdateFoldsTheLanesInOrder : Prop :=
  (∀ (len : Nat) (a0 a1 : Word), len ≤ 4 →
    decode ⟨BitVec.ofNat 32 (len * 256 + 2), a0, a1⟩ = .ok (.ceUpdate (BitVec.ofNat 3 len) a0)) ∧
  (∀ c : Command, c.cmd.toNat % 256 = 2 → (5 ≤ c.cmd.toNat / 256 % 8 ∨ c.cmd.toNat / 2048 ≠ 0) → ∃ e, decode c = .error e) ∧
  (∀ (s : State) (len : BitVec 3) (arg0 : Word), len.toNat ≤ 4 →
    ∃ t, exec (.ceUpdate len arg0) s = .next t ∧
      t.acc = foldSeq s.acc (bytesOf len.toNat arg0) ∧
      t.hidden = s.hidden.foldBytes s.cfg.accWidth (bytesOf len.toNat arg0) ∧
      t.result.toNat = t.s2.toNat * 65536 + t.s1.toNat ∧ t.status = 0 ∧ t.rspValid = true ∧ SameEnvironment s t) ∧
  (∀ (s : State) (arg0 : Word), ∃ t, exec (.ceUpdate 0 arg0) s = .next t ∧ SameChecksum s t ∧ Responds t s.ck 0)

/-- CE_FINAL returns `S2·65536 + S1` and changes no accumulator, so that a second one returns the same
(40_checksum_engine.md R88). -/
def Obligations.FinalReadsTheChecksum : Prop :=
  (∀ a0 a1 : Word, decode ⟨0x00000003, a0, a1⟩ = .ok .ceFinal) ∧
  ∀ s : State, ∃ t, exec .ceFinal s = .next t ∧ SameChecksum s t ∧ SameEnvironment s t ∧
    t.result.toNat = s.s2.toNat * 65536 + s.s1.toNat ∧ t.status = 0 ∧ t.rspValid = true ∧ exec .ceFinal t = .next t

/-- CE_LOAD restores a saved state; only a half of 65521 or more raises INVALID_STATE, with no effect
(40_checksum_engine.md R90). -/
def Obligations.LoadRestoresOrRefusesTheOperand : Prop :=
  (∀ a0 a1 : Word, decode ⟨0x00000004, a0, a1⟩ = .ok (.ceLoad a0)) ∧
  (∀ (s : State) (arg0 : Word), arg0.toNat / 65536 < 65521 → arg0.toNat % 65536 < 65521 →
    ∃ t, exec (.ceLoad arg0) s = .next t ∧ HoldsReduced t (arg0.toNat % 65536) (arg0.toNat / 65536) ∧
      SameEnvironment s t ∧ Responds t arg0 0) ∧
  (∀ (s : State) (arg0 : Word), (65521 ≤ arg0.toNat / 65536 ∨ 65521 ≤ arg0.toNat % 65536) →
    ∃ t, exec (.ceLoad arg0) s = .next t ∧ OnlyReports s t 0 6)

/-- CE_FINAL and CE_LOAD invert each other: what CE_FINAL reads of one state, CE_LOAD restores from any other
(40_checksum_engine.md R91). -/
def Obligations.LoadRestoresWhatFinalSaved : Prop :=
  ∀ s s' : State, s.s1.toNat < 65521 → s.s2.toNat < 65521 →
    ∃ t u, exec .ceFinal s = .next t ∧ exec (.ceLoad t.result) s' = .next u ∧
      u.s1 = s.s1 ∧ u.s2 = s.s2 ∧ Responds u t.result 0

/-- CE_VERIFY compares all 32 bits, returns the checksum value either way and changes no accumulator
(40_checksum_engine.md R92). -/
def Obligations.VerifyComparesAllThirtyTwoBits : Prop :=
  (∀ a0 a1 : Word, decode ⟨0x00000005, a0, a1⟩ = .ok (.ceVerify a0)) ∧
  ∀ (s : State) (arg0 : Word), ∃ t, exec (.ceVerify arg0) s = .next t ∧ SameChecksum s t ∧ SameEnvironment s t ∧
    t.result.toNat = s.s2.toNat * 65536 + s.s1.toNat ∧ t.rspValid = true ∧
    (arg0.toNat = s.s2.toNat * 65536 + s.s1.toNat → t.status = 0) ∧
    (arg0.toNat ≠ s.s2.toNat * 65536 + s.s1.toNat → t.status = 4)

/-- No configuration and no hidden state can suppress or downgrade a mismatch, and the trailer that a checksum's wire bytes
assemble to is no mismatch (40_checksum_engine.md R93, 20_memory.md R40, R42). -/
def Obligations.OnlyTheRightTrailerVerifies : Prop :=
  (∀ (s : State) (cfg : Config) (d : Datapath) (arg0 : Word), arg0 ≠ s.ck →
    ∃ t, exec (.ceVerify arg0) { s with cfg := cfg, hidden := d } = .next t ∧ t.status = 4) ∧
  (∀ (s : State) (t0 t1 t2 t3 : Byte), wireBytes s.ck = [t0, t1, t2, t3] →
    ∃ t, exec (.ceVerify (ofWireBytes t0 t1 t2 t3)) s = .next t ∧ t.status = 0)

/-- CE_COMBINE's new accumulators, and its two errors (40_checksum_engine.md R94). R94 places UNSUPPORTED at decode, as the last
check of 30_encoding.md R64; that `decode` accepts CMD 6 in every configuration and `exec` makes this check first is the
model's own (log 9). -/
def Obligations.CombineAppendsOrReports : Prop :=
  (∀ a0 a1 : Word, decode ⟨0x00000006, a0, a1⟩ = .ok (.ceCombine a0 a1)) ∧
  (∀ (s : State) (arg0 arg1 : Word), s.cfg.hasCombine = true →
    arg0.toNat / 65536 < 65521 → arg0.toNat % 65536 < 65521 →
    ∃ t, exec (.ceCombine arg0 arg1) s = .next t ∧
      HoldsReduced t ((s.s1.toNat + arg0.toNat % 65536 + 65521 - 1) % 65521)
        ((s.s2.toNat + arg0.toNat / 65536 + arg1.toNat % 65521 * (s.s1.toNat + 65521 - 1)) % 65521) ∧
      SameEnvironment s t ∧ t.result.toNat = t.s2.toNat * 65536 + t.s1.toNat ∧ t.status = 0 ∧ t.rspValid = true) ∧
  (∀ (s : State) (arg0 arg1 : Word), s.cfg.hasCombine = true →
    (65521 ≤ arg0.toNat / 65536 ∨ 65521 ≤ arg0.toNat % 65536) →
    ∃ t, exec (.ceCombine arg0 arg1) s = .next t ∧ OnlyReports s t 0 6) ∧
  (∀ (s : State) (arg0 arg1 : Word), s.cfg.hasCombine = false →
    ∃ t, exec (.ceCombine arg0 arg1) s = .next t ∧ OnlyReports s t 0 7)

/-! ## The laws of the checksum -/

/-- CE_COMBINE computes the checksum of the concatenation (40_checksum_engine.md R95). -/
def Obligations.CombineIsTheChecksumOfTheConcatenation : Prop :=
  ∀ (s : State) (start : Accumulators) (x y : List Byte) (n : Word),
    s.cfg.hasCombine = true → start.s1 < 65521 → start.s2 < 65521 → s.acc = foldSeq start x →
    n.toNat % 65521 = y.length % 65521 →
    ∃ t, exec (.ceCombine (adler y) n) s = .next t ∧ t.acc = foldSeq start (x ++ y) ∧ t.status = 0

/-- The partition law: any CE_UPDATE commands, cut in any way, leave what folding the whole stream leaves
(40_checksum_engine.md R97). -/
def Obligations.UpdatesDependOnlyOnTheByteStream : Prop :=
  (∀ (a : Accumulators) (b1 b2 : List Byte), foldSeq a (b1 ++ b2) = foldSeq (foldSeq a b1) b2) ∧
  (∀ (us : List (BitVec 3 × Word)) (s : State), (∀ u ∈ us, u.1.toNat ≤ 4) →
    ∃ t, execAll (us.map fun u => .ceUpdate u.1 u.2) s = .next t ∧
      t.acc = foldSeq s.acc (us.flatMap fun u => bytesOf u.1.toNat u.2))

/-- A change of one byte by d changes the final S1 by d modulo P, which is never 0, and so the checksum value
(40_checksum_engine.md R98). -/
def Obligations.ChangingOneByteChangesTheChecksum : Prop :=
  ∀ (a : Accumulators) (b1 b2 : List Byte) (x y : Byte), x ≠ y →
    ((foldSeq a (b1 ++ x :: b2)).s1 + y.toNat) % 65521 = ((foldSeq a (b1 ++ y :: b2)).s1 + x.toNat) % 65521 ∧
    (foldSeq a (b1 ++ x :: b2)).s1 ≠ (foldSeq a (b1 ++ y :: b2)).s1 ∧
    (foldSeq a (b1 ++ x :: b2)).ck ≠ (foldSeq a (b1 ++ y :: b2)).ck

/-- The checksum value is `S2·65536 + S1`, its halves are the registers, and it determines both (10_state.md R25). -/
def Obligations.ChecksumValueDeterminesTheAccumulators : Prop :=
  (∀ s : State, s.ck.toNat = s.s2.toNat * 65536 + s.s1.toNat ∧ s.ck.toNat / 65536 = s.s2.toNat ∧
    s.ck.toNat % 65536 = s.s1.toNat) ∧
  (∀ s t : State, s.ck = t.ck ↔ s.s1 = t.s1 ∧ s.s2 = t.s2)

/-- A checksum value goes on the wire as 4 bytes, most significant first: `t0 t1` is S2 and `t2 t3` is S1 big-endian, and a
host that holds the 4 bytes assembles the value back (20_memory.md R40; the assembling is R42's). -/
def Obligations.ChecksumGoesOnTheWireBigEndian : Prop :=
  (∀ ck : Word, (wireBytes ck).map BitVec.toNat =
    [ck.toNat / 2 ^ 24, ck.toNat / 2 ^ 16 % 256, ck.toNat / 2 ^ 8 % 256, ck.toNat % 256]) ∧
  (∀ (s : State) (t0 t1 t2 t3 : Byte), wireBytes s.ck = [t0, t1, t2, t3] ↔
    t0.toNat * 256 + t1.toNat = s.s2.toNat ∧ t2.toNat * 256 + t3.toNat = s.s1.toNat) ∧
  (∀ t0 t1 t2 t3 : Byte, wireBytes (ofWireBytes t0 t1 t2 t3) = [t0, t1, t2, t3] ∧
    (ofWireBytes t0 t1 t2 t3).toNat = t0.toNat * 2 ^ 24 + t1.toNat * 2 ^ 16 + t2.toNat * 2 ^ 8 + t3.toNat)

/-- From any state, `ce.init`, `ce.fold D`, `ce.final` return `adler D`, the dictionary id of D, whatever D's length
(40_checksum_engine.md R83, R89; the expansion of `ce.fold` is 30_encoding.md R72's). -/
def Obligations.InitFoldFinalReturnsTheChecksum : Prop :=
  ∀ (s : State) (bytes : List Byte),
    ∃ t, execAll (.ceInit :: foldInstrs bytes ++ [.ceFinal]) s = .next t ∧ Responds t (adler bytes) 0

/-! ## The delayed-reduction datapath -/

/-- NMAX(W) is the largest run whose peak fits W bits, with the values of the table, and below 18 bits it is 0
(40_checksum_engine.md R102). -/
def Obligations.NmaxIsTheLargestSafeRun : Prop :=
  (∀ w n : Nat, 16 ≤ w → (255 * n * (n + 1) / 2 + (n + 1) * 65520 ≤ 2 ^ w - 1 ↔ n ≤ nmax w)) ∧
  (∀ w : Nat, w < 18 → nmax w = 0) ∧
  (∀ (w : Nat) (bytes : List Byte) (d : Datapath), 16 ≤ w → d.a1 ≤ 65520 → d.a2 ≤ 65520 → bytes.length ≤ nmax w →
    (d.overrun w bytes).a1 ≤ 65520 + 255 * bytes.length ∧
    (d.overrun w bytes).a2 ≤ 255 * bytes.length * (bytes.length + 1) / 2 + (bytes.length + 1) * 65520) ∧
  (∀ w n : Nat, 16 ≤ w → n ≤ nmax w →
    (Datapath.overrun w ⟨65520, 65520, 0⟩ (List.replicate n 0xFF)).a2 = 255 * n * (n + 1) / 2 + (n + 1) * 65520 ∧
    (Datapath.overrun w ⟨65520, 65520, 0⟩ (List.replicate n 0xFF)).a1 = 65520 + 255 * n) ∧
  nmax 18 = 2 ∧ nmax 24 = 186 ∧ nmax 31 = 3854 ∧ nmax 32 = 5552 ∧ nmax 33 = 7954 ∧
  nmax 48 = 1485557 ∧ nmax 64 = 380368439

/-- Within the run bound no addition of the datapath wraps, RUN never passes NMAX, and its outputs are those of the per-byte
fold, for every legal ACC_WIDTH and every byte sequence (40_checksum_engine.md R103, R105). -/
def Obligations.DelayedReductionEqualsPerByteFold : Prop :=
  ∀ (w : Nat) (d : Datapath), 18 ≤ w → d.InBounds w →
    (∀ b : Byte, (d.addByte w b).a1 = d.a1 + b.toNat ∧ (d.addByte w b).a2 = d.a2 + (d.a1 + b.toNat) ∧
      (d.addByte w b).run ≤ nmax w) ∧
    (∀ bytes : List Byte, (d.foldBytes w bytes).reduced = foldSeq d.reduced bytes ∧ (d.foldBytes w bytes).InBounds w)

/-- IMG's bound is exact: with 32-bit accumulators, one byte past 5552 without a reduction wraps A2 silently and gives
0x61E59C89, where the fold gives 0x62C69C89 (40_checksum_engine.md R104). -/
def Obligations.OverrunningTheBoundWrapsSilently : Prop :=
  (Datapath.overrun 32 ⟨65520, 65520, 0⟩ (List.replicate 5553 0xFF)).reduced.ck = 0x61E59C89 ∧
  (foldSeq ⟨65520, 65520⟩ (List.replicate 5553 0xFF)).ck = 0x62C69C89 ∧
  (Datapath.overrun 32 ⟨65520, 65520, 0⟩ (List.replicate 5552 0xFF)).reduced =
    foldSeq ⟨65520, 65520⟩ (List.replicate 5552 0xFF)

/-! ## The header codec -/

/-- HC_PARSE: its three checks in their order, and the descriptor (41_header_codec.md R112). -/
def Obligations.ParseChecksThenReturnsTheDescriptor : Prop :=
  (∀ a0 a1 : Word, decode ⟨0x00000010, a0, a1⟩ = .ok (.hcParse a0)) ∧
  ∀ (s : State) (arg0 : Word), ∀ byte0 byte1 : Nat, byte0 = arg0.toNat / 256 % 256 → byte1 = arg0.toNat % 256 →
    (byte0 % 16 ≠ 8 → ∃ t, exec (.hcParse arg0) s = .next t ∧ OnlyReports s t 0 1) ∧
    (byte0 % 16 = 8 → 7 < byte0 / 16 → ∃ t, exec (.hcParse arg0) s = .next t ∧ OnlyReports s t 0 2) ∧
    (byte0 % 16 = 8 → byte0 / 16 ≤ 7 → (byte0 * 256 + byte1) % 31 ≠ 0 →
      ∃ t, exec (.hcParse arg0) s = .next t ∧ OnlyReports s t 0 3) ∧
    (byte0 % 16 = 8 → byte0 / 16 ≤ 7 → (byte0 * 256 + byte1) % 31 = 0 →
      ∃ t, exec (.hcParse arg0) s = .next t ∧ OnlyReports s t (BitVec.ofNat 32
        (byte1 / 64 * 2 ^ 14 + byte1 / 32 % 2 * 2 ^ 13 + byte1 % 32 * 2 ^ 8 + byte0 / 16 * 2 ^ 4 + byte0 % 16)) 0)

/-- HC_SERIALIZE: its two checks in their order, and the header word with the smallest check_bits that satisfies the
constraint (41_header_codec.md R114). -/
def Obligations.SerializeChecksThenReturnsTheHeader : Prop :=
  (∀ a0 a1 : Word, decode ⟨0x00000011, a0, a1⟩ = .ok (.hcSerialize a0)) ∧
  ∀ (s : State) (arg0 : Word), ∀ m wi d lv base : Nat,
    m = arg0.toNat % 16 → wi = arg0.toNat / 16 % 16 → d = arg0.toNat / 2 ^ 13 % 2 → lv = arg0.toNat / 2 ^ 14 % 4 →
    base = (wi * 16 + m) * 256 + (lv * 64 + d * 32) →
    (m ≠ 8 → ∃ t, exec (.hcSerialize arg0) s = .next t ∧ OnlyReports s t 0 1) ∧
    (m = 8 → 7 < wi → ∃ t, exec (.hcSerialize arg0) s = .next t ∧ OnlyReports s t 0 2) ∧
    (m = 8 → wi ≤ 7 → ∃ t, exec (.hcSerialize arg0) s = .next t ∧
      OnlyReports s t (BitVec.ofNat 32 (base + (31 - base % 31) % 31)) 0 ∧
      ValidHeader (t.result.truncate 16) ∧ ∀ fc : Nat, (base + fc) % 31 = 0 → (31 - base % 31) % 31 ≤ fc)

/-- HC_PARSE accepts exactly the valid header words, reading ARG0[15:0] alone (41_header_codec.md R111, R110). -/
def Obligations.ParseAcceptsExactlyTheValidHeaders : Prop :=
  ∀ (s : State) (arg0 : Word), ∃ t, exec (.hcParse arg0) s = .next t ∧
    (t.status = 0 ↔ ValidHeader (arg0.truncate 16))

/-- Of the 32 check_bits values exactly one satisfies the constraint, or exactly two (0 and 31) where the base is a multiple of
31, which among valid fields happens for two combinations; HC_SERIALIZE chooses 0 for both (41_header_codec.md R115). -/
def Obligations.CheckBitsAreUniqueButForTwoHeaders : Prop :=
  (∀ base : Nat, (List.range 32).filter (fun fc => (base + fc) % 31 == 0) =
    if base % 31 = 0 then [0, 31] else [31 - base % 31]) ∧
  (∀ wi d lv : Nat, wi ≤ 7 → d ≤ 1 → lv ≤ 3 →
    (((wi * 16 + 8) * 256 + lv * 64 + d * 32) % 31 = 0 ↔ (wi = 7 ∧ d = 1 ∧ lv = 0) ∨ (wi = 6 ∧ d = 1 ∧ lv = 2))) ∧
  (∀ s : State, (∃ t, exec (.hcSerialize 0x00003F78) s = .next t ∧ t.result = 0x00007820) ∧
    (∃ t, exec (.hcSerialize 0x0000BF68) s = .next t ∧ t.result = 0x000068A0))

/-- The round trips of the header codec (41_header_codec.md R116): HC_SERIALIZE then HC_PARSE returns the descriptor with the
check_bits that were chosen, and HC_PARSE then HC_SERIALIZE returns the header word, but for 0x783F and 0x68BF. -/
def Obligations.HeaderRoundTrips : Prop :=
  (∀ (s : State) (arg0 : Word), arg0.toNat % 16 = 8 → arg0.toNat / 16 % 16 ≤ 7 →
    ∃ t u, exec (.hcSerialize arg0) s = .next t ∧ exec (.hcParse t.result) t = .next u ∧ u.status = 0 ∧
      u.result.toNat = arg0.toNat / 2 ^ 13 % 8 * 2 ^ 13 + t.result.toNat % 32 * 2 ^ 8 + arg0.toNat % 256) ∧
  (∀ (s : State) (w : Half), ValidHeader w →
    ∃ t u, exec (.hcParse (w.zeroExtend 32)) s = .next t ∧ exec (.hcSerialize t.result) t = .next u ∧ u.status = 0 ∧
      u.result = if w = 0x783F then 0x7820 else if w = 0x68BF then 0x68A0 else w.zeroExtend 32)

/-- The descriptor layout and the header's wire layout hold every field, and a parsed descriptor is the header word with its
bytes swapped (30_encoding.md R68, R69, 20_memory.md R41). -/
def Obligations.DescriptorLayoutKeepsEveryField : Prop :=
  (∀ d : Descriptor, Descriptor.ofWord d.toWord = d ∧ Descriptor.ofBytes d.byte0 d.byte1 = d) ∧
  (∀ d : Descriptor, d.toWord.toNat = d.levelHint.toNat * 2 ^ 14 + d.hasDictionary.toNat * 2 ^ 13 +
    d.checkBits.toNat * 2 ^ 8 + d.windowInfo.toNat * 2 ^ 4 + d.method.toNat) ∧
  (∀ d : Descriptor, d.byte0.toNat = d.windowInfo.toNat * 16 + d.method.toNat ∧
    d.byte1.toNat = d.levelHint.toNat * 64 + d.hasDictionary.toNat * 32 + d.checkBits.toNat) ∧
  (∀ a b : Word, a.toNat % 2 ^ 16 = b.toNat % 2 ^ 16 → Descriptor.ofWord a = Descriptor.ofWord b) ∧
  (∀ b0 b1 : Byte, (Descriptor.ofBytes b0 b1).toWord.toNat = b1.toNat * 256 + b0.toNat ∧
    (headerOfBytes b0 b1).toNat = b0.toNat * 256 + b1.toNat)

/-- The header codec holds no state: its commands are functions of ARG0, read neither S1 nor S2, and write only RESULT and
STATUS (10_state.md R30). -/
def Obligations.HeaderCodecIsPure : Prop :=
  ∀ (s s' : State) (arg0 : Word), ∀ i ∈ [Instr.hcParse arg0, Instr.hcSerialize arg0],
    ∃ t t', exec i s = .next t ∧ exec i s' = .next t' ∧ t.result = t'.result ∧ t.status = t'.status ∧
      SameChecksum s t ∧ SameEnvironment s t

/-! ## Rules about every command -/

/-- The code every accepted command reports, by the causes of 60_exceptions.md R130 in the order of R134 and R135, and the
RESULT recorded with an error. -/
def Obligations.EveryCommandReportsTheFirstErrorThatApplies : Prop :=
  ∀ (s : State) (c : Command) (rest : List HostInput), Offers s c rest →
    ∃ t, step s = .next t ∧ t.status.toNat = reportedCode s c ∧
      (reportedCode s c = 4 → t.result = s.ck) ∧ (reportedCode s c ≠ 0 → reportedCode s c ≠ 4 → t.result = 0)

/-- An error is reported precisely and atomically (60_exceptions.md R131). -/
def Obligations.ErrorsChangeOnlyResultAndStatus : Prop :=
  ∀ (s t : State) (c : Command) (rest : List HostInput), Offers s c rest → step s = .next t → t.status ≠ 0 →
    OnlyReports (s.taking rest) t (if t.status = 4 then s.ck else 0) t.status

/-- Errors are not sticky: no command reads STATUS, and whatever STATUS holds the next command runs and overwrites it
(60_exceptions.md R132). -/
def Obligations.ErrorsAreNotSticky : Prop :=
  ∀ (s : State) (c : Command) (before : BitVec 4),
    runCommand c { s with status := before } = runCommand c s ∧ ∃ t, runCommand c s = .next t ∧ t.rspValid = true

/-- Only CE_INIT, CE_UPDATE, CE_LOAD and CE_COMBINE write the accumulators, on no error; every command leaves the parameters,
`cmd_ready` and the host's inputs alone, and only NOP keeps RESULT (10_state.md R22, R23, R26). -/
def Obligations.OnlyFourCommandsWriteTheAccumulators : Prop :=
  ∀ (i : Instr) (s t : State), exec i s = .next t →
    SameEnvironment s t ∧
    (match i with
      | .ceInit | .ceUpdate _ _ | .ceLoad _ | .ceCombine _ _ => t.status ≠ 0 → SameChecksum s t
      | .nop | .ceFinal | .ceVerify _ | .hcParse _ | .hcSerialize _ => SameChecksum s t) ∧
    (match i with
      | .nop => t.result = s.result
      | .ceInit | .ceUpdate _ _ | .ceLoad _ | .ceCombine _ _ => t.status = 0 → t.result = t.ck
      | .ceFinal | .ceVerify _ => t.result = s.ck
      | .hcParse _ | .hcSerialize _ => t.result.toNat < 65536)

/-- Reading has no side effect: CE_FINAL, CE_VERIFY, HC_PARSE and HC_SERIALIZE change no accumulator, they and CE_INIT and
CE_LOAD leave a second copy nothing to change, and CE_UPDATE and CE_COMBINE do not (20_memory.md R46). -/
def Obligations.ReadingHasNoSideEffect : Prop :=
  (∀ (s : State) (a : Word), ∀ i ∈ [Instr.ceFinal, .ceVerify a, .hcParse a, .hcSerialize a, .ceInit, .ceLoad a],
    ∃ t, exec i s = .next t ∧ exec i t = .next t) ∧
  (∀ (s : State) (a : Word), ∀ i ∈ [Instr.ceFinal, .ceVerify a, .hcParse a, .hcSerialize a],
    ∃ t, exec i s = .next t ∧ SameChecksum s t) ∧
  (∃ (s : State) (a : Word), ∃ t u, exec (.ceUpdate 1 a) s = .next t ∧ exec (.ceUpdate 1 a) t = .next u ∧ u ≠ t) ∧
  (∃ (s : State) (a b : Word), ∃ t u, exec (.ceCombine a b) s = .next t ∧ exec (.ceCombine a b) t = .next u ∧ u ≠ t)

/-- What can never be observed: two machines that differ in ACC_WIDTH and in the hidden registers alone show the same
responses and the same final accumulators, over any number of steps (00_scope.md R8, 10_state.md R29). -/
def Obligations.HiddenStateIsNeverObserved : Prop :=
  ∀ (n : Nat) (s : State) (w : Nat) (d : Datapath),
    observe n { s with cfg := { s.cfg with accWidth := w }, hidden := d } = observe n s

/-! ## The invariant -/

/-- The invariant holds at reset, for every legal ACC_WIDTH (10_state.md R32, R24). -/
def Obligations.ResetMeetsTheInvariant : Prop :=
  State.reset.Inv ∧ ∀ (cfg : Config) (inputs : List HostInput), cfg.legal → (State.resetWith cfg inputs).Inv

/-- Every step from every state that meets the invariant leads to one that meets it: the accumulators stay below 65521
(10_state.md R24), STATUS stays a code that exists (10_state.md R27), A1 and A2 stay congruent to S1 and S2 (10_state.md
R29), and RUN stays within NMAX with the accumulators inside the bound (40_checksum_engine.md R101, R105). -/
def Obligations.EveryStepKeepsTheInvariant : Prop :=
  ∀ s t : State, s.Inv → step s = .next t → t.Inv

/-- In a state that meets the invariant the checksum value that the block outputs is the one the delayed-reduction datapath
holds, `(A2 mod P) ++ (A1 mod P)`, after any number of steps (40_checksum_engine.md R100). -/
def Obligations.OutputsAreTheReducedDatapath : Prop :=
  ∀ (n : Nat) (s : State), s.Inv → (stateAfter n s).ck = (stateAfter n s).hidden.reduced.ck ∧ SafeRun n s

/-! ## Assembly -/

/-- The assembler refuses a LEN above 4 and an operand that does not fit in 32 bits, and assembles every other line of the
syntax table to the row's words (30_encoding.md R71). -/
def Obligations.AssemblerFollowsTheSyntaxTable : Prop :=
  (∀ len a0 : Nat, Asm.assemble (.ceUpdate len a0) =
    if len ≤ 4 ∧ a0 < 2 ^ 32 then some [⟨BitVec.ofNat 32 (len * 256 + 2), BitVec.ofNat 32 a0, 0⟩] else none) ∧
  (∀ a0 a1 : Nat, Asm.assemble (.ceCombine a0 a1) =
    if a0 < 2 ^ 32 ∧ a1 < 2 ^ 32 then some [⟨0x00000006, BitVec.ofNat 32 a0, BitVec.ofNat 32 a1⟩] else none) ∧
  (∀ a0 : Nat, a0 < 2 ^ 32 →
    Asm.assemble (.ceLoad a0) = some [⟨0x00000004, BitVec.ofNat 32 a0, 0⟩] ∧
    Asm.assemble (.ceVerify a0) = some [⟨0x00000005, BitVec.ofNat 32 a0, 0⟩] ∧
    Asm.assemble (.hcParse a0) = some [⟨0x00000010, BitVec.ofNat 32 a0, 0⟩] ∧
    Asm.assemble (.hcSerialize a0) = some [⟨0x00000011, BitVec.ofNat 32 a0, 0⟩]) ∧
  (∀ a0 : Nat, 2 ^ 32 ≤ a0 → Asm.assemble (.ceLoad a0) = none ∧ Asm.assemble (.ceVerify a0) = none ∧
    Asm.assemble (.hcParse a0) = none ∧ Asm.assemble (.hcSerialize a0) = none) ∧
  Asm.assemble .nop = some [⟨0x00000000, 0, 0⟩] ∧ Asm.assemble .ceInit = some [⟨0x00000001, 0, 0⟩] ∧
  Asm.assemble .ceFinal = some [⟨0x00000003, 0, 0⟩]

/-- `ce.fold` expands to ⌈k/4⌉ CE_UPDATE commands; command j carries bytes 4j to min(4j + 3, k − 1), in lanes from 0 up, with
LEN their number; together they fold exactly the k bytes in order, whatever the state. `ce.save` is `ce.final` and
`ce.restore` is `ce.load` (30_encoding.md R72). -/
def Obligations.FoldExpansionFoldsTheBytes : Prop :=
  (∀ bytes : List Byte,
    (foldInstrs bytes).length = (bytes.length + 3) / 4 ∧
    (∀ (j : Nat) (i : Instr), (foldInstrs bytes)[j]? = some i → i.wf = true ∧
      ∃ len a0, i = .ceUpdate len a0 ∧ bytesOf len.toNat a0 = (bytes.drop (4 * j)).take 4) ∧
    ∀ s : State, ∃ t, execAll (foldInstrs bytes) s = .next t ∧ t.acc = foldSeq s.acc bytes) ∧
  (∀ bytes : List Byte, Asm.assemble (.ceFold bytes) = some ((foldInstrs bytes).map encode)) ∧
  Asm.assemble .ceSave = Asm.assemble .ceFinal ∧
  (∀ a0 : Nat, Asm.assemble (.ceRestore a0) = Asm.assemble (.ceLoad a0))
end

