-- ==== Sys2Proof/Laws/Operands.lean ====
section
/-! SUPPORT. What the operand forms and the status codes are, as numbers. -/

namespace Sys2Proof.Machine

theorem lane_toNat (arg0 : Word) (i : Nat) : (lane arg0 i).toNat = arg0.toNat / 2 ^ (8 * i) % 256 := by
  simp [lane, Nat.shiftRight_eq_div_pow]

theorem ckHi_toNat (ck : Word) : (ckHi ck).toNat = ck.toNat / 65536 := by
  simp only [ckHi, BitVec.extractLsb'_toNat, Nat.shiftRight_eq_div_pow]
  have := ck.isLt
  omega

theorem ckLo_toNat (ck : Word) : (ckLo ck).toNat = ck.toNat % 65536 := by
  simp [ckLo]

theorem ckOf_toNat (s1 s2 : Half) : (ckOf s1 s2).toNat = s2.toNat * 65536 + s1.toNat := by
  have := s1.isLt
  simp only [ckOf, BitVec.toNat_append]
  rw [← Nat.shiftLeft_add_eq_or_of_lt this, Nat.shiftLeft_eq]

theorem ckLegal_iff (ck : Word) :
    ckLegal ck = true ↔ ck.toNat / 65536 < 65521 ∧ ck.toNat % 65536 < 65521 := by
  simp [ckLegal, modulus, ckHi_toNat, ckLo_toNat]

theorem ckHi_ckOf (s1 s2 : Half) : ckHi (ckOf s1 s2) = s2 := by
  apply BitVec.eq_of_toNat_eq
  have := s1.isLt
  rw [ckHi_toNat, ckOf_toNat]
  omega

theorem ckLo_ckOf (s1 s2 : Half) : ckLo (ckOf s1 s2) = s1 := by
  apply BitVec.eq_of_toNat_eq
  have := s1.isLt
  rw [ckLo_toNat, ckOf_toNat]
  omega

theorem headerArg_toNat (arg0 : Word) : (headerArg arg0).toNat = arg0.toNat % 65536 := by
  simp [headerArg]

theorem headerByte0_toNat (w : Half) : (headerByte0 w).toNat = w.toNat / 256 := by
  have := w.isLt
  simp only [headerByte0, BitVec.extractLsb'_toNat, Nat.shiftRight_eq_div_pow]
  omega

theorem headerByte1_toNat (w : Half) : (headerByte1 w).toNat = w.toNat % 256 := by
  simp [headerByte1]

/-- No code above 7 is ever a status's (60_exceptions.md R130). -/
theorem Status.code_le (code : Status) : code.code.toNat ≤ 7 := by
  cases code <;> decide

/-- Only OK has code 0. -/
theorem Status.code_eq_zero (code : Status) : code.code = 0 ↔ code = .ok := by
  cases code <;> decide

theorem compareStatus_eq_ok (received computed : Word) : compareStatus received computed = .ok ↔ received = computed := by
  unfold compareStatus
  split <;> simp_all

end Sys2Proof.Machine
end

