-- ==== Sys2Proof/Laws/Arithmetic.lean ====
section
/-! SUPPORT. The fold, its bounds, and one lemma per operation of the datapath. -/

namespace Sys2Proof.Machine

theorem modulus_pos : 0 < modulus := by decide

theorem modulus_lt : modulus < 2 ^ 16 := by decide

/-- Both accumulators are reduced (10_state.md R24). -/
def Accumulators.Reduced (a : Accumulators) : Prop := a.s1 < modulus ∧ a.s2 < modulus

theorem fold_reduced (a : Accumulators) (b : Byte) : (fold a b).Reduced :=
  ⟨Nat.mod_lt _ modulus_pos, Nat.mod_lt _ modulus_pos⟩

@[simp] theorem foldSeq_nil (a : Accumulators) : foldSeq a [] = a := rfl

@[simp] theorem foldSeq_cons (a : Accumulators) (b : Byte) (bytes : List Byte) :
    foldSeq a (b :: bytes) = foldSeq (fold a b) bytes := rfl

theorem foldSeq_reduced {a : Accumulators} (h : a.Reduced) (bytes : List Byte) : (foldSeq a bytes).Reduced := by
  induction bytes generalizing a with
  | nil => exact h
  | cons b bytes ih => exact ih (fold_reduced a b)

theorem fresh_reduced : fresh.Reduced := ⟨by decide, by decide⟩

theorem combine_reduced (a : Accumulators) (lo hi n : Nat) : (combine a lo hi n).Reduced :=
  ⟨Nat.mod_lt _ modulus_pos, Nat.mod_lt _ modulus_pos⟩

/-- A fold depends on its accumulators only modulo P. -/
theorem fold_reduce (x y : Nat) (b : Byte) : fold ⟨x % modulus, y % modulus⟩ b = fold ⟨x, y⟩ b := by
  simp only [fold, Accumulators.mk.injEq]
  simp only [modulus]
  omega

/-- The peak of a run grows by one byte 0xFF over the peak of A1 (40_checksum_engine.md R102). -/
theorem runPeak_succ (n : Nat) : runPeak (n + 1) = runPeak n + (65520 + 255 * (n + 1)) := by
  have h : 255 * (n + 1) * (n + 1 + 1) = 255 * n * (n + 1) + (255 * (n + 1)) * 2 := by ring
  simp only [runPeak]
  rw [h, Nat.add_mul_div_right _ _ (by decide)]
  ring

@[simp] theorem Datapath.foldBytes_nil (width : Nat) (d : Datapath) : d.foldBytes width [] = d := rfl

@[simp] theorem Datapath.foldBytes_cons (width : Nat) (d : Datapath) (b : Byte) (bytes : List Byte) :
    d.foldBytes width (b :: bytes) = (d.foldByte width b).foldBytes width bytes := rfl

@[simp] theorem Datapath.overrun_nil (width : Nat) (d : Datapath) : d.overrun width [] = d := rfl

@[simp] theorem Datapath.overrun_cons (width : Nat) (d : Datapath) (b : Byte) (bytes : List Byte) :
    d.overrun width (b :: bytes) = (d.addByte width b).overrun width bytes := rfl

@[simp] theorem Datapath.addByte_run (width : Nat) (d : Datapath) (b : Byte) : (d.addByte width b).run = d.run + 1 := rfl

@[simp] theorem Datapath.reduce_reduced (d : Datapath) : d.reduce.reduced = d.reduced := by
  simp [Datapath.reduce, Datapath.reduced]

/-- A byte is folded by the additions, or by the additions and a reduction when RUN reaches NMAX. -/
theorem Datapath.foldByte_cases (width : Nat) (d : Datapath) (b : Byte) :
    (d.run + 1 = nmax width ∧ d.foldByte width b = (d.addByte width b).reduce) ∨
    (d.run + 1 ≠ nmax width ∧ d.foldByte width b = d.addByte width b) := by
  by_cases h : d.run + 1 = nmax width
  · exact .inl ⟨h, by simp [Datapath.foldByte, h]⟩
  · exact .inr ⟨h, by simp [Datapath.foldByte, h]⟩

/-- Below the wrap, the additions are exact. -/
theorem Datapath.addByte_exact {width : Nat} {d : Datapath} {b : Byte} (h : d.a2 + (d.a1 + b.toNat) < 2 ^ width) :
    d.addByte width b = ⟨d.a1 + b.toNat, d.a2 + (d.a1 + b.toNat), d.run + 1⟩ := by
  have h1 : d.a1 + b.toNat < 2 ^ width := by omega
  simp only [Datapath.addByte, Nat.mod_eq_of_lt h1, Nat.mod_eq_of_lt h]

end Sys2Proof.Machine
end

