-- ==== Sys2Proof/Laws/Decode.lean ====
section
/-! SUPPORT. The fields of a command word as numbers, and of a packed one. -/

namespace Sys2Proof

theorem opcOf_toNat (cmd : Word) : (opcOf cmd).toNat = cmd.toNat % 256 := by
  simp [opcOf]

theorem lenOf_toNat (cmd : Word) : (lenOf cmd).toNat = cmd.toNat / 256 % 8 := by
  simp [lenOf, Nat.shiftRight_eq_div_pow]

theorem rsvOf_toNat (cmd : Word) : (rsvOf cmd).toNat = cmd.toNat / 2048 := by
  have := cmd.isLt
  simp only [rsvOf, BitVec.extractLsb'_toNat, Nat.shiftRight_eq_div_pow]
  omega

theorem packCmd_toNat (len : BitVec 3) (opc : BitVec 8) : (packCmd len opc).toNat = len.toNat * 256 + opc.toNat := by
  have := opc.isLt
  have := len.isLt
  simp only [packCmd, BitVec.toNat_append]
  rw [← Nat.shiftLeft_add_eq_or_of_lt ‹opc.toNat < _›, ← Nat.shiftLeft_add_eq_or_of_lt ‹len.toNat < _›]
  simp [Nat.shiftLeft_eq]

@[simp] theorem opcOf_packCmd (len : BitVec 3) (opc : BitVec 8) : opcOf (packCmd len opc) = opc := by
  apply BitVec.eq_of_toNat_eq
  have := opc.isLt
  rw [opcOf_toNat, packCmd_toNat]
  omega

@[simp] theorem lenOf_packCmd (len : BitVec 3) (opc : BitVec 8) : lenOf (packCmd len opc) = len := by
  apply BitVec.eq_of_toNat_eq
  have := opc.isLt
  have := len.isLt
  rw [lenOf_toNat, packCmd_toNat]
  omega

@[simp] theorem rsvOf_packCmd (len : BitVec 3) (opc : BitVec 8) : rsvOf (packCmd len opc) = 0 := by
  apply BitVec.eq_of_toNat_eq
  have := opc.isLt
  have := len.isLt
  rw [rsvOf_toNat, packCmd_toNat]
  simp
  omega

end Sys2Proof
end

