-- ==== Sys2Proof/Laws/State.lean ====
section
/-! SUPPORT. Reading a field after an update of the state: one lemma per field per named update, true by rfl, so that no
later proof unfolds a record update. -/

namespace Sys2Proof.Machine

@[simp] theorem State.writeAcc_cfg (s : State) (a : Accumulators) : (s.writeAcc a).cfg = s.cfg := rfl
@[simp] theorem State.writeAcc_s1 (s : State) (a : Accumulators) : (s.writeAcc a).s1 = BitVec.ofNat 16 a.s1 := rfl
@[simp] theorem State.writeAcc_s2 (s : State) (a : Accumulators) : (s.writeAcc a).s2 = BitVec.ofNat 16 a.s2 := rfl
@[simp] theorem State.writeAcc_result (s : State) (a : Accumulators) : (s.writeAcc a).result = s.result := rfl
@[simp] theorem State.writeAcc_status (s : State) (a : Accumulators) : (s.writeAcc a).status = s.status := rfl
@[simp] theorem State.writeAcc_hidden (s : State) (a : Accumulators) : (s.writeAcc a).hidden = s.hidden := rfl
@[simp] theorem State.writeAcc_cmdReady (s : State) (a : Accumulators) : (s.writeAcc a).cmdReady = s.cmdReady := rfl
@[simp] theorem State.writeAcc_rspValid (s : State) (a : Accumulators) : (s.writeAcc a).rspValid = s.rspValid := rfl
@[simp] theorem State.writeAcc_inputs (s : State) (a : Accumulators) : (s.writeAcc a).inputs = s.inputs := rfl

@[simp] theorem State.setAcc_cfg (s : State) (a : Accumulators) : (s.setAcc a).cfg = s.cfg := rfl
@[simp] theorem State.setAcc_s1 (s : State) (a : Accumulators) : (s.setAcc a).s1 = BitVec.ofNat 16 a.s1 := rfl
@[simp] theorem State.setAcc_s2 (s : State) (a : Accumulators) : (s.setAcc a).s2 = BitVec.ofNat 16 a.s2 := rfl
@[simp] theorem State.setAcc_result (s : State) (a : Accumulators) : (s.setAcc a).result = s.result := rfl
@[simp] theorem State.setAcc_status (s : State) (a : Accumulators) : (s.setAcc a).status = s.status := rfl
@[simp] theorem State.setAcc_hidden (s : State) (a : Accumulators) : (s.setAcc a).hidden = Datapath.ofReduced a := rfl
@[simp] theorem State.setAcc_cmdReady (s : State) (a : Accumulators) : (s.setAcc a).cmdReady = s.cmdReady := rfl
@[simp] theorem State.setAcc_rspValid (s : State) (a : Accumulators) : (s.setAcc a).rspValid = s.rspValid := rfl
@[simp] theorem State.setAcc_inputs (s : State) (a : Accumulators) : (s.setAcc a).inputs = s.inputs := rfl

@[simp] theorem State.foldBytes_cfg (s : State) (bytes : List Byte) : (s.foldBytes bytes).cfg = s.cfg := rfl
@[simp] theorem State.foldBytes_s1 (s : State) (bytes : List Byte) : (s.foldBytes bytes).s1 = BitVec.ofNat 16 (foldSeq s.acc bytes).s1 := rfl
@[simp] theorem State.foldBytes_s2 (s : State) (bytes : List Byte) : (s.foldBytes bytes).s2 = BitVec.ofNat 16 (foldSeq s.acc bytes).s2 := rfl
@[simp] theorem State.foldBytes_result (s : State) (bytes : List Byte) : (s.foldBytes bytes).result = s.result := rfl
@[simp] theorem State.foldBytes_status (s : State) (bytes : List Byte) : (s.foldBytes bytes).status = s.status := rfl
@[simp] theorem State.foldBytes_hidden (s : State) (bytes : List Byte) : (s.foldBytes bytes).hidden = s.hidden.foldBytes s.cfg.accWidth bytes := rfl
@[simp] theorem State.foldBytes_cmdReady (s : State) (bytes : List Byte) : (s.foldBytes bytes).cmdReady = s.cmdReady := rfl
@[simp] theorem State.foldBytes_rspValid (s : State) (bytes : List Byte) : (s.foldBytes bytes).rspValid = s.rspValid := rfl
@[simp] theorem State.foldBytes_inputs (s : State) (bytes : List Byte) : (s.foldBytes bytes).inputs = s.inputs := rfl

@[simp] theorem State.respond_cfg (s : State) (code : Status) (result : Word) : (s.respond code result).cfg = s.cfg := rfl
@[simp] theorem State.respond_s1 (s : State) (code : Status) (result : Word) : (s.respond code result).s1 = s.s1 := rfl
@[simp] theorem State.respond_s2 (s : State) (code : Status) (result : Word) : (s.respond code result).s2 = s.s2 := rfl
@[simp] theorem State.respond_result (s : State) (code : Status) (result : Word) : (s.respond code result).result = result := rfl
@[simp] theorem State.respond_status (s : State) (code : Status) (result : Word) : (s.respond code result).status = code.code := rfl
@[simp] theorem State.respond_hidden (s : State) (code : Status) (result : Word) : (s.respond code result).hidden = s.hidden := rfl
@[simp] theorem State.respond_cmdReady (s : State) (code : Status) (result : Word) : (s.respond code result).cmdReady = s.cmdReady := rfl
@[simp] theorem State.respond_rspValid (s : State) (code : Status) (result : Word) : (s.respond code result).rspValid = true := rfl
@[simp] theorem State.respond_inputs (s : State) (code : Status) (result : Word) : (s.respond code result).inputs = s.inputs := rfl

@[simp] theorem State.raise_cfg (s : State) (code : Status) : (s.raise code).cfg = s.cfg := rfl
@[simp] theorem State.raise_s1 (s : State) (code : Status) : (s.raise code).s1 = s.s1 := rfl
@[simp] theorem State.raise_s2 (s : State) (code : Status) : (s.raise code).s2 = s.s2 := rfl
@[simp] theorem State.raise_result (s : State) (code : Status) : (s.raise code).result = 0 := rfl
@[simp] theorem State.raise_status (s : State) (code : Status) : (s.raise code).status = code.code := rfl
@[simp] theorem State.raise_hidden (s : State) (code : Status) : (s.raise code).hidden = s.hidden := rfl
@[simp] theorem State.raise_cmdReady (s : State) (code : Status) : (s.raise code).cmdReady = s.cmdReady := rfl
@[simp] theorem State.raise_rspValid (s : State) (code : Status) : (s.raise code).rspValid = true := rfl
@[simp] theorem State.raise_inputs (s : State) (code : Status) : (s.raise code).inputs = s.inputs := rfl

@[simp] theorem State.resetEdge_cfg (s : State) : s.resetEdge.cfg = s.cfg := rfl
@[simp] theorem State.resetEdge_s1 (s : State) : s.resetEdge.s1 = 1 := rfl
@[simp] theorem State.resetEdge_s2 (s : State) : s.resetEdge.s2 = 0 := rfl
@[simp] theorem State.resetEdge_result (s : State) : s.resetEdge.result = 0 := rfl
@[simp] theorem State.resetEdge_status (s : State) : s.resetEdge.status = 0 := rfl
@[simp] theorem State.resetEdge_hidden (s : State) : s.resetEdge.hidden = { a1 := 1, a2 := 0, run := 0 } := rfl
@[simp] theorem State.resetEdge_cmdReady (s : State) : s.resetEdge.cmdReady = false := rfl
@[simp] theorem State.resetEdge_rspValid (s : State) : s.resetEdge.rspValid = false := rfl
@[simp] theorem State.resetEdge_inputs (s : State) : s.resetEdge.inputs = s.inputs := rfl

@[simp] theorem State.wait_cfg (s : State) : s.wait.cfg = s.cfg := rfl
@[simp] theorem State.wait_s1 (s : State) : s.wait.s1 = s.s1 := rfl
@[simp] theorem State.wait_s2 (s : State) : s.wait.s2 = s.s2 := rfl
@[simp] theorem State.wait_result (s : State) : s.wait.result = s.result := rfl
@[simp] theorem State.wait_status (s : State) : s.wait.status = s.status := rfl
@[simp] theorem State.wait_hidden (s : State) : s.wait.hidden = s.hidden := rfl
@[simp] theorem State.wait_cmdReady (s : State) : s.wait.cmdReady = true := rfl
@[simp] theorem State.wait_rspValid (s : State) : s.wait.rspValid = false := rfl
@[simp] theorem State.wait_inputs (s : State) : s.wait.inputs = s.inputs := rfl

@[simp] theorem State.taking_cfg (s : State) (rest : List HostInput) : (s.taking rest).cfg = s.cfg := rfl
@[simp] theorem State.taking_s1 (s : State) (rest : List HostInput) : (s.taking rest).s1 = s.s1 := rfl
@[simp] theorem State.taking_s2 (s : State) (rest : List HostInput) : (s.taking rest).s2 = s.s2 := rfl
@[simp] theorem State.taking_result (s : State) (rest : List HostInput) : (s.taking rest).result = s.result := rfl
@[simp] theorem State.taking_status (s : State) (rest : List HostInput) : (s.taking rest).status = s.status := rfl
@[simp] theorem State.taking_hidden (s : State) (rest : List HostInput) : (s.taking rest).hidden = s.hidden := rfl
@[simp] theorem State.taking_cmdReady (s : State) (rest : List HostInput) : (s.taking rest).cmdReady = s.cmdReady := rfl
@[simp] theorem State.taking_rspValid (s : State) (rest : List HostInput) : (s.taking rest).rspValid = s.rspValid := rfl
@[simp] theorem State.taking_inputs (s : State) (rest : List HostInput) : (s.taking rest).inputs = rest := rfl

@[simp] theorem State.offered_cfg (s : State) (c : Command) : (s.offered c).cfg = s.cfg := rfl
@[simp] theorem State.offered_s1 (s : State) (c : Command) : (s.offered c).s1 = s.s1 := rfl
@[simp] theorem State.offered_s2 (s : State) (c : Command) : (s.offered c).s2 = s.s2 := rfl
@[simp] theorem State.offered_result (s : State) (c : Command) : (s.offered c).result = s.result := rfl
@[simp] theorem State.offered_status (s : State) (c : Command) : (s.offered c).status = s.status := rfl
@[simp] theorem State.offered_hidden (s : State) (c : Command) : (s.offered c).hidden = s.hidden := rfl
@[simp] theorem State.offered_cmdReady (s : State) (c : Command) : (s.offered c).cmdReady = true := rfl
@[simp] theorem State.offered_rspValid (s : State) (c : Command) : (s.offered c).rspValid = s.rspValid := rfl
@[simp] theorem State.offered_inputs (s : State) (c : Command) : (s.offered c).inputs = .command c :: s.inputs := rfl

@[simp] theorem State.resetWith_cfg (cfg : Config) (inputs : List HostInput) :
    (State.resetWith cfg inputs).cfg = cfg := rfl
@[simp] theorem State.resetWith_s1 (cfg : Config) (inputs : List HostInput) :
    (State.resetWith cfg inputs).s1 = 1 := rfl
@[simp] theorem State.resetWith_s2 (cfg : Config) (inputs : List HostInput) :
    (State.resetWith cfg inputs).s2 = 0 := rfl
@[simp] theorem State.resetWith_result (cfg : Config) (inputs : List HostInput) :
    (State.resetWith cfg inputs).result = 0 := rfl
@[simp] theorem State.resetWith_status (cfg : Config) (inputs : List HostInput) :
    (State.resetWith cfg inputs).status = 0 := rfl
@[simp] theorem State.resetWith_hidden (cfg : Config) (inputs : List HostInput) :
    (State.resetWith cfg inputs).hidden = { a1 := 1, a2 := 0, run := 0 } := rfl
@[simp] theorem State.resetWith_cmdReady (cfg : Config) (inputs : List HostInput) :
    (State.resetWith cfg inputs).cmdReady = false := rfl
@[simp] theorem State.resetWith_rspValid (cfg : Config) (inputs : List HostInput) :
    (State.resetWith cfg inputs).rspValid = false := rfl
@[simp] theorem State.resetWith_inputs (cfg : Config) (inputs : List HostInput) :
    (State.resetWith cfg inputs).inputs = inputs := rfl

@[simp] theorem State.respond_ck (s : State) (code : Status) (result : Word) : (s.respond code result).ck = s.ck := rfl
@[simp] theorem State.respond_acc (s : State) (code : Status) (result : Word) : (s.respond code result).acc = s.acc := rfl
@[simp] theorem State.raise_ck (s : State) (code : Status) : (s.raise code).ck = s.ck := rfl
@[simp] theorem State.raise_acc (s : State) (code : Status) : (s.raise code).acc = s.acc := rfl
@[simp] theorem State.taking_ck (s : State) (rest : List HostInput) : (s.taking rest).ck = s.ck := rfl
@[simp] theorem State.taking_acc (s : State) (rest : List HostInput) : (s.taking rest).acc = s.acc := rfl
@[simp] theorem State.wait_ck (s : State) : s.wait.ck = s.ck := rfl
@[simp] theorem State.wait_acc (s : State) : s.wait.acc = s.acc := rfl
@[simp] theorem State.acc_s1 (s : State) : s.acc.s1 = s.s1.toNat := rfl
@[simp] theorem State.acc_s2 (s : State) : s.acc.s2 = s.s2.toNat := rfl

end Sys2Proof.Machine
end

