-- ==== Sys2Proof/Laws/Exec.lean ====
section
/-! SUPPORT. Everything an instruction can do, said once per meaning and once for `exec`. -/

namespace Sys2Proof.Machine

/-- The shapes in which a command ends: a response with the accumulators left alone, a fresh reduced pair, or a fold. -/
inductive Ends (s : State) : State → Prop where
  /-- NOP, CE_FINAL, CE_VERIFY, HC_PARSE, HC_SERIALIZE, and every error. -/
  | respond (code : Status) (result : Word) : Ends s (s.respond code result)
  /-- CE_INIT, CE_LOAD, CE_COMBINE on success. -/
  | set (a : Accumulators) (reduced : a.Reduced) (result : Word) : Ends s ((s.setAcc a).respond .ok result)
  /-- CE_UPDATE. -/
  | fold (bytes : List Byte) (result : Word) : Ends s ((s.foldBytes bytes).respond .ok result)

theorem raise_eq_respond (s : State) (code : Status) : s.raise code = s.respond code 0 := rfl

theorem execCeLoad_legal {arg0 : Word} (h : ckLegal arg0 = true) (s : State) :
    execCeLoad arg0 s = .next ((s.setAcc ⟨(ckLo arg0).toNat, (ckHi arg0).toNat⟩).respond .ok arg0) := by
  simp [execCeLoad, h]

theorem execCeLoad_illegal {arg0 : Word} (h : ckLegal arg0 = false) (s : State) :
    execCeLoad arg0 s = .next (s.raise .invalidState) := by
  simp [execCeLoad, h]

theorem execCeCombine_legal {s : State} {arg0 : Word} (hc : s.cfg.hasCombine = true) (h : ckLegal arg0 = true) (arg1 : Word) :
    execCeCombine arg0 arg1 s =
      .next ((s.setAcc (combine s.acc (ckLo arg0).toNat (ckHi arg0).toNat arg1.toNat)).respond .ok
        (s.setAcc (combine s.acc (ckLo arg0).toNat (ckHi arg0).toNat arg1.toNat)).ck) := by
  simp [execCeCombine, hc, h]

theorem execCeCombine_illegal {s : State} {arg0 : Word} (hc : s.cfg.hasCombine = true) (h : ckLegal arg0 = false) (arg1 : Word) :
    execCeCombine arg0 arg1 s = .next (s.raise .invalidState) := by
  simp [execCeCombine, hc, h]

theorem execCeCombine_absent {s : State} (hc : s.cfg.hasCombine = false) (arg0 arg1 : Word) :
    execCeCombine arg0 arg1 s = .next (s.raise .unsupported) := by
  simp [execCeCombine, hc]

/-- Every instruction answers a next state, of one of the three shapes. -/
theorem exec_ends (i : Instr) (s : State) : ∃ t, exec i s = .next t ∧ Ends s t := by
  cases i with
  | nop => exact ⟨_, rfl, .respond _ _⟩
  | ceInit => exact ⟨_, rfl, .set _ fresh_reduced _⟩
  | ceUpdate len arg0 => exact ⟨_, rfl, .fold _ _⟩
  | ceFinal => exact ⟨_, rfl, .respond _ _⟩
  | ceLoad arg0 =>
    simp only [exec]
    cases h : ckLegal arg0 with
    | true =>
      have hl := (ckLegal_iff arg0).1 h
      refine ⟨_, execCeLoad_legal h s, .set _ ⟨?_, ?_⟩ _⟩
      · simpa [ckLo_toNat, modulus] using hl.2
      · simpa [ckHi_toNat, modulus] using hl.1
    | false => exact ⟨_, execCeLoad_illegal h s, .respond _ _⟩
  | ceVerify arg0 => exact ⟨_, rfl, .respond _ _⟩
  | ceCombine arg0 arg1 =>
    simp only [exec]
    cases hc : s.cfg.hasCombine with
    | false => exact ⟨_, execCeCombine_absent hc _ _, .respond _ _⟩
    | true =>
      cases h : ckLegal arg0 with
      | true => exact ⟨_, execCeCombine_legal hc h _, .set _ (combine_reduced _ _ _ _) _⟩
      | false => exact ⟨_, execCeCombine_illegal hc h _, .respond _ _⟩
  | hcParse arg0 =>
    simp only [exec, execHcParse]
    cases parseHeader (headerArg arg0) with
    | ok d => exact ⟨_, rfl, .respond _ _⟩
    | error e => exact ⟨_, rfl, .respond _ _⟩
  | hcSerialize arg0 =>
    simp only [exec, execHcSerialize]
    cases serializeHeader (Descriptor.ofWord arg0) with
    | ok w => exact ⟨_, rfl, .respond _ _⟩
    | error e => exact ⟨_, rfl, .respond _ _⟩

end Sys2Proof.Machine
end

