-- ==== Sys2Proof/Laws/PerInstr.lean ====
section
/-! SUPPORT. Statements about every instruction as syntax, one lemma per constructor. -/

namespace Sys2Proof.Laws

/-- An instruction's command word is one of its own row of opcode_table.json, its LEN field is its own, and its reserved bits
are zero (30_encoding.md R61, R63). -/
def Encoded.Statement (i : Instr) : Prop :=
  (∃ r ∈ opcodeTable, r.mnemonic = i.mnemonic ∧ r.accepts (encode i).cmd = true) ∧
  opcOf (encode i).cmd = i.opcode ∧ lenOf (encode i).cmd = i.lenField ∧ rsvOf (encode i).cmd = 0

theorem Encoded.of_row {i : Instr} (h : ∃ r ∈ opcodeTable, r.mnemonic = i.mnemonic ∧ r.accepts (encode i).cmd = true) :
    Encoded.Statement i :=
  ⟨h, opcOf_packCmd _ _, lenOf_packCmd _ _, rsvOf_packCmd _ _⟩

theorem Encoded.nop : Encoded.Statement .nop := Encoded.of_row (by decide)

theorem Encoded.ceInit : Encoded.Statement .ceInit := Encoded.of_row (by decide)

theorem Encoded.ceUpdate (len : BitVec 3) (arg0 : Word) : Encoded.Statement (.ceUpdate len arg0) :=
  Encoded.of_row ⟨⟨"CE_UPDATE", 0xFFFFF8FF, 0x00000002⟩, by decide, rfl, by
    have h : ∀ l : BitVec 3, OpcodeRow.accepts ⟨"CE_UPDATE", 0xFFFFF8FF, 0x00000002⟩ (packCmd l 0x02) = true := by decide
    exact h len⟩

theorem Encoded.ceFinal : Encoded.Statement .ceFinal := Encoded.of_row (by decide)

theorem Encoded.ceLoad (arg0 : Word) : Encoded.Statement (.ceLoad arg0) :=
  Encoded.of_row ⟨⟨"CE_LOAD", 0xFFFFFFFF, 0x00000004⟩, by decide, rfl,
    (by decide : OpcodeRow.accepts ⟨"CE_LOAD", 0xFFFFFFFF, 0x00000004⟩ (packCmd 0 0x04) = true)⟩

theorem Encoded.ceVerify (arg0 : Word) : Encoded.Statement (.ceVerify arg0) :=
  Encoded.of_row ⟨⟨"CE_VERIFY", 0xFFFFFFFF, 0x00000005⟩, by decide, rfl,
    (by decide : OpcodeRow.accepts ⟨"CE_VERIFY", 0xFFFFFFFF, 0x00000005⟩ (packCmd 0 0x05) = true)⟩

theorem Encoded.ceCombine (arg0 arg1 : Word) : Encoded.Statement (.ceCombine arg0 arg1) :=
  Encoded.of_row ⟨⟨"CE_COMBINE", 0xFFFFFFFF, 0x00000006⟩, by decide, rfl,
    (by decide : OpcodeRow.accepts ⟨"CE_COMBINE", 0xFFFFFFFF, 0x00000006⟩ (packCmd 0 0x06) = true)⟩

theorem Encoded.hcParse (arg0 : Word) : Encoded.Statement (.hcParse arg0) :=
  Encoded.of_row ⟨⟨"HC_PARSE", 0xFFFFFFFF, 0x00000010⟩, by decide, rfl,
    (by decide : OpcodeRow.accepts ⟨"HC_PARSE", 0xFFFFFFFF, 0x00000010⟩ (packCmd 0 0x10) = true)⟩

theorem Encoded.hcSerialize (arg0 : Word) : Encoded.Statement (.hcSerialize arg0) :=
  Encoded.of_row ⟨⟨"HC_SERIALIZE", 0xFFFFFFFF, 0x00000011⟩, by decide, rfl,
    (by decide : OpcodeRow.accepts ⟨"HC_SERIALIZE", 0xFFFFFFFF, 0x00000011⟩ (packCmd 0 0x11) = true)⟩

end Sys2Proof.Laws
end

