-- ==== Sys2Proof/Laws/Step.lean ====
section
/-! SUPPORT. Everything a step can do. -/

namespace Sys2Proof.Machine

/-- An accepted command ends in one of the three shapes, from the state it was accepted in. -/
theorem runCommand_ends (c : Command) (s : State) : ∃ t, runCommand c s = .next t ∧ Ends s t := by
  unfold runCommand
  cases decode c with
  | ok i => exact exec_ends i s
  | error e => exact ⟨_, rfl, .respond _ _⟩

/-- A step runs an accepted command, waits, or resets; it never faults and never refuses. -/
theorem step_cases (s : State) :
    (∃ c rest t, s.cmdReady = true ∧ s.inputs = .command c :: rest ∧ step s = .next t ∧
      runCommand c (s.taking rest) = .next t ∧ Ends (s.taking rest) t) ∨
    ((s.inputs = [] ∨ (s.cmdReady = false ∧ ∃ c rest, s.inputs = .command c :: rest)) ∧ step s = .next s.wait) ∨
    (∃ rest, (s.inputs = .reset :: rest ∨ ∃ c, s.inputs = .interrupted c :: rest) ∧
      step s = .next (s.taking rest).resetEdge) := by
  unfold step
  split
  · exact .inr (.inl ⟨.inl ‹_›, rfl⟩)
  · rename_i c rest h
    unfold offerCommand
    cases hr : s.cmdReady with
    | true =>
      obtain ⟨t, ht, hends⟩ := runCommand_ends c (s.taking rest)
      exact .inl ⟨c, rest, t, rfl, h, by simpa using ht, ht, hends⟩
    | false => exact .inr (.inl ⟨.inr ⟨rfl, c, rest, h⟩, by simp⟩)
  · rename_i rest h
    exact .inr (.inr ⟨rest, .inl h, rfl⟩)
  · rename_i c rest h
    exact .inr (.inr ⟨rest, .inr ⟨c, h⟩, rfl⟩)

theorem step_of_offers {s : State} {c : Command} {rest : List HostInput} (h : Offers s c rest) :
    step s = runCommand c (s.taking rest) := by
  obtain ⟨hr, hi⟩ := h
  simp [step, hi, offerCommand, hr]

/-- `withFetchWord` makes the very next step run its word. -/
theorem step_withFetchWord (s : State) (nbits w : Nat) :
    step (s.withFetchWord nbits w) = runCommand (Command.ofBits nbits w) { s with cmdReady := true } := rfl

end Sys2Proof.Machine
end

