-- ==== Sys2Proof/Tests/Slice0.lean ====
section
/-! SUPPORT. Tests, each with an expected value from spec/95_test_vectors.md (V and P numbers) or from the rule it names, and
witnesses: for each statement of Obligations.lean that has hypotheses, concrete data that meet them. -/

namespace Sys2Proof.Tests

open Sys2Proof.Machine

/-- A ready block that holds S2 = hi and S1 = lo, as after CE_LOAD. -/
def holding (hi lo : Half) : State :=
  { State.reset with s1 := lo, s2 := hi, hidden := ⟨lo.toNat, hi.toNat, 0⟩, cmdReady := true }

/-- The state "after V15": "abc" folded from reset, RESULT as it left it. -/
def afterAbc : State := { holding 0x024D 0x0127 with result := 0x024D0127 }

/-- A state without CE_COMBINE. -/
def noCombine (s : State) : State := { s with cfg := { s.cfg with hasCombine := false } }

/-- (RESULT, STATUS, S1, S2) after one step on a command. -/
def shown (s : State) (cmd arg0 arg1 : Word) : Option (Word × BitVec 4 × Half × Half) :=
  match step (s.offered ⟨cmd, arg0, arg1⟩) with
  | .next t => some (t.result, t.status, t.s1, t.s2)
  | _ => none

/-- The hidden registers after one step on a command. -/
def hiddenAfter (s : State) (cmd arg0 arg1 : Word) : Option Datapath :=
  match step (s.offered ⟨cmd, arg0, arg1⟩) with
  | .next t => some t.hidden
  | _ => none

/-! ## Well-formedness: an ill-formed term for the check, and the legal bound of the configuration -/

theorem test_wf_refuses_len_5 : (Instr.ceUpdate 5 0).wf = false := by decide
theorem test_wf_accepts_len_4 : (Instr.ceUpdate 4 0).wf = true := by decide
theorem test_config_refuses_width_17 : ¬ Config.legal { accWidth := 17, hasCombine := true } := by decide
theorem test_config_accepts_width_18 : Config.legal { accWidth := 18, hasCombine := true } := by decide

/-! ## Decoding: words written out from 30_encoding.md R61 (RSV 21 bits, LEN 3 bits, OPC 8 bits) and R63 -/

theorem test_decode_nop : decode ⟨0b000000000000000000000_000_00000000, 1, 2⟩ = .ok .nop := by decide
theorem test_decode_init : decode ⟨0b000000000000000000000_000_00000001, 1, 2⟩ = .ok .ceInit := by decide
theorem test_decode_update : decode ⟨0b000000000000000000000_100_00000010, 0x696B6957, 2⟩ = .ok (.ceUpdate 4 0x696B6957) := by
  decide
theorem test_decode_final : decode ⟨0b000000000000000000000_000_00000011, 1, 2⟩ = .ok .ceFinal := by decide
theorem test_decode_load : decode ⟨0b000000000000000000000_000_00000100, 0x024D0127, 2⟩ = .ok (.ceLoad 0x024D0127) := by decide
theorem test_decode_verify : decode ⟨0b000000000000000000000_000_00000101, 0x27014D02, 2⟩ = .ok (.ceVerify 0x27014D02) := by
  decide
theorem test_decode_combine : decode ⟨0b000000000000000000000_000_00000110, 0x06280204, 5⟩ = .ok (.ceCombine 0x06280204 5) := by
  decide
theorem test_decode_parse : decode ⟨0b000000000000000000000_000_00010000, 0x789C, 2⟩ = .ok (.hcParse 0x789C) := by decide
theorem test_decode_serialize : decode ⟨0b000000000000000000000_000_00010001, 0x9C78, 2⟩ = .ok (.hcSerialize 0x9C78) := by decide
theorem test_decode_unknown_opcode : decode ⟨0x00000012, 0, 0⟩ = .error .unknownOpcode := by decide
theorem test_decode_reserved_bit_31 : decode ⟨0x80000001, 0, 0⟩ = .error .reservedNotZero := by decide
theorem test_decode_len_on_final : decode ⟨0x00000103, 0, 0⟩ = .error .lengthNotZero := by decide
theorem test_decode_len_5 : decode ⟨0x00000502, 0, 0⟩ = .error .lengthTooLarge := by decide

/-- A row's word has its ARG words in the bits above CMD (log 12). -/
theorem test_decodeTableWord_operands : decodeTableWord 96 0x00000005_06280204_00000006 = some (.ceCombine 0x06280204 5) := by
  decide
theorem test_decodeTableWord_update : decodeTableWord 32 0x00000302 = some (.ceUpdate 3 0) := by decide
theorem test_withFetchWord_runs_first : (match step (State.reset.withFetchWord 32 0x00000003) with
    | .next t => some (t.result, t.rspValid, t.inputs)
    | _ => none) = some (0x00000001, true, []) := by decide

/-! ## NOP and the commands of the checksum unit -/

/-- V19d. -/
theorem test_nop_keeps_result : shown afterAbc 0x00000000 0 0 = some (0x024D0127, 0, 0x0127, 0x024D) := by decide
/-- 40_checksum_engine.md R82: after an error, STATUS becomes OK and RESULT stays 0. -/
theorem test_nop_after_error : shown { afterAbc with result := 0, status := 6 } 0x00000000 0 0 = some (0, 0, 0x0127, 0x024D) := by
  decide
/-- V11. -/
theorem test_init_ignores_prior_state : shown (holding 0x11E6 0x0398) 0x00000001 0 0 = some (1, 0, 1, 0) := by decide
/-- V18: lanes 2 and 3 are ignored. -/
theorem test_update_two_lanes : shown (holding 0 1) 0x00000202 0xFFFF6261 0 = some (0x012600C4, 0, 0x00C4, 0x0126) := by decide
/-- V19a: both accumulators wrap modulo 65521. -/
theorem test_update_wraps : shown (holding 0xFFF0 0xFFF0) 0x00000102 0x000000FF 0 = some (0x00FD00FE, 0, 0x00FE, 0x00FD) := by
  decide
/-- 40_checksum_engine.md R100, R102: the 5552nd byte of a run with 32-bit accumulators is followed by a reduction. -/
theorem test_update_reduces_at_5552 :
    hiddenAfter { holding 0 1 with hidden := ⟨65522, 131042, 5551⟩ } 0x00000102 0 0 = some ⟨1, 1, 0⟩ := by decide +kernel
/-- 40_checksum_engine.md R100: one byte earlier there is none. -/
theorem test_update_delays_before_5552 :
    hiddenAfter { holding 0 1 with hidden := ⟨65522, 131042, 5550⟩ } 0x00000102 0 0 = some ⟨65522, 196564, 5551⟩ := by decide +kernel
/-- V19b. -/
theorem test_final_of_abc : shown { afterAbc with result := 7 } 0x00000003 0 0 = some (0x024D0127, 0, 0x0127, 0x024D) := by decide
/-- V23. -/
theorem test_load_largest : shown (holding 0 1) 0x00000004 0xFFF0FFF0 0 = some (0xFFF0FFF0, 0, 0xFFF0, 0xFFF0) := by decide
/-- V25. -/
theorem test_load_refuses_65521 : shown afterAbc 0x00000004 0x0000FFF1 0 = some (0, 6, 0x0127, 0x024D) := by decide
/-- V27. -/
theorem test_verify_matches : shown afterAbc 0x00000005 0x024D0127 0 = some (0x024D0127, 0, 0x0127, 0x024D) := by decide
/-- V28. -/
theorem test_verify_reversed_bytes : shown afterAbc 0x00000005 0x27014D02 0 = some (0x024D0127, 4, 0x0127, 0x024D) := by decide
/-- V42: S1 = 0. -/
theorem test_combine_from_zero : shown (holding 0 0) 0x00000006 0x06280204 5 = some (0x06230203, 0, 0x0203, 0x0623) := by decide
/-- V89b: UNSUPPORTED beats the operand check. -/
theorem test_combine_unsupported : shown (noCombine afterAbc) 0x00000006 0xFFF10000 0 = some (0, 7, 0x0127, 0x024D) := by decide

/-! ## The commands of the header codec -/

/-- V65. -/
theorem test_parse_dictionary_and_level : shown (holding 0 1) 0x00000010 0x000078BB 0 = some (0x0000BB78, 0, 1, 0) := by decide
/-- V72: window_info is reported although the constraint holds. -/
theorem test_parse_window_before_constraint : shown (holding 0 1) 0x00000010 0x0000881C 0 = some (0, 2, 1, 0) := by decide
/-- V54: the check_bits given are ignored and 0 is chosen of 0 and 31. -/
theorem test_serialize_smallest_check_bits : shown (holding 0 1) 0x00000011 0x00003F78 0 = some (0x00007820, 0, 1, 0) := by decide
/-- V59d: method before window_info. -/
theorem test_serialize_method_first : shown (holding 0 1) 0x00000011 0x000000F7 0 = some (0, 1, 1, 0) := by decide

/-! ## Illegal words, reset and waiting -/

/-- V82. -/
theorem test_illegal_reserved_bit : shown afterAbc 0x00000802 1 0 = some (0, 5, 0x0127, 0x024D) := by decide
/-- V89a: decode beats UNSUPPORTED. -/
theorem test_illegal_before_unsupported : shown (noCombine afterAbc) 0x00000106 1 0 = some (0, 5, 0x0127, 0x024D) := by decide
/-- V92, V94: reset discards the loaded state and an error report. -/
theorem test_reset_discards : stateAfter 1 { afterAbc with status := 3, inputs := [.reset] } = State.reset := by decide
/-- 70_reset_and_hazards.md R161: after reset a command waits for `cmd_ready`. -/
theorem test_command_waits_after_reset : stateAfter 1 { State.reset with inputs := [.command ⟨1, 0, 0⟩] } =
    { State.reset with inputs := [.command ⟨1, 0, 0⟩], cmdReady := true } := by decide

/-! ## Arithmetic and assembly -/

/-- V1. -/
theorem test_adler_wikipedia : adler [0x57, 0x69, 0x6B, 0x69, 0x70, 0x65, 0x64, 0x69, 0x61] = 0x11E60398 := by decide
/-- 40_checksum_engine.md R102. -/
theorem test_nmax_32 : nmax 32 = 5552 := by decide +kernel
/-- 30_encoding.md R72: `ce.fold "abc"` is `ce.update 3, 0x00636261`. -/
theorem test_fold_string : assembleLine "ce.fold \"abc\"".toList = some [⟨0x00000302, 0x00636261, 0⟩] := by decide
/-- 30_encoding.md R71. -/
theorem test_assemble_update : assembleLine "ce.update 3, 0x00636261".toList = some [⟨0x00000302, 0x00636261, 0⟩] := by decide
/-- 30_encoding.md R71: the assembler refuses a LEN of 5. -/
theorem test_assemble_refuses_len_5 : assembleLine "ce.update 5, 0x01".toList = none := by decide
/-- 30_encoding.md R71: the assembler refuses an operand of 33 bits. -/
theorem test_assemble_refuses_33_bits : assembleLine "ce.load 4294967296".toList = none := by decide

/-! ## Witnesses: data that meet the hypotheses of each statement -/

theorem witness_DecodeOfEncodeIsTheInstruction :
    (Instr.ceUpdate 0 0xFFFFFFFF).wf = true ∧ (Instr.ceUpdate 4 0xFFFFFFFF).wf = true := by decide

theorem witness_EncodeOfDecodeIsTheCommand :
    decode ⟨0x00000402, 0xFFFFFFFF, 0xFFFFFFFF⟩ = .ok (.ceUpdate 4 0xFFFFFFFF) := by decide

theorem witness_DecoderAcceptsExactlyTheOpcodeTable :
    decode ⟨0x00000402, 0, 0⟩ = .ok (.ceUpdate 4 0) ∧
    (⟨"CE_UPDATE", 0xFFFFF8FF, 0x00000002⟩ : OpcodeRow) ∈ opcodeTable ∧
    OpcodeRow.accepts ⟨"CE_UPDATE", 0xFFFFF8FF, 0x00000002⟩ 0x00000402 = true := by decide

theorem witness_IllegalCommandWordsOnlyReportIllegalCommand :
    (Offers (afterAbc.offered ⟨0x00000502, 1, 0⟩) ⟨0x00000502, 1, 0⟩ [] ∧ Illegal 0x00000502) ∧
    (Illegal 0x00000007 ∧ Illegal 0x00000012 ∧ Illegal 0x00000802 ∧ Illegal 0x80000001 ∧ Illegal 0x00000100) ∧
    (Offers ((noCombine afterAbc).offered ⟨6, 1, 0⟩) ⟨6, 1, 0⟩ [] ∧ (noCombine afterAbc).cfg.hasCombine = false) := by
  refine ⟨⟨⟨rfl, rfl⟩, ?_⟩, ⟨?_, ?_, ?_, ?_, ?_⟩, ⟨rfl, rfl⟩, rfl⟩ <;> unfold Illegal <;> decide

theorem witness_UnreadOperandBitsAreIgnored :
    SameReadBits 0x00000202 0xFFFF6261 1 0x00006261 2 ∧ SameReadBits 0x00000002 7 1 8 2 ∧
    SameReadBits 0x00000010 0x1234789C 1 0x789C 2 ∧ SameReadBits 0x00000011 0xFFFF1F78 1 0x0000E078 2 = False ∧
    SameReadBits 0x00000011 0xFFFF1F78 1 0x00000078 2 ∧ SameReadBits 0x00000003 7 1 8 2 ∧
    SameReadBits 0x00000005 7 1 7 2 ∧ SameReadBits 0x00000006 7 1 7 1 ∧
    (0x00000103 : Word).toNat % 256 ≠ 2 ∧ (0x00000103 : Word).toNat / 256 % 8 ≠ 0 ∧ (0x00000802 : Word).toNat / 2048 ≠ 0 := by
  simp [SameReadBits]

theorem witness_StepRunsTheDecodedInstruction :
    (Offers (afterAbc.offered ⟨3, 0, 0⟩) ⟨3, 0, 0⟩ [] ∧ decode ⟨3, 0, 0⟩ = .ok .ceFinal) ∧
    (Offers (afterAbc.offered ⟨7, 0, 0⟩) ⟨7, 0, 0⟩ [] ∧ decode ⟨7, 0, 0⟩ = .error .unknownOpcode) ∧
    decodeTableWord 32 0x00000402 = some (.ceUpdate 4 0) :=
  ⟨⟨⟨rfl, rfl⟩, by decide⟩, ⟨⟨rfl, rfl⟩, by decide⟩, by decide⟩

theorem witness_WaitingKeepsEveryRegister :
    afterAbc.inputs = [] ∧
    ((State.resetWith Config.default [.command ⟨3, 0, 0⟩]).cmdReady = false ∧
      (State.resetWith Config.default [.command ⟨3, 0, 0⟩]).inputs = [.command ⟨3, 0, 0⟩]) := by decide

theorem witness_EveryAcceptedCommandResponds :
    Offers (afterAbc.offered ⟨0xFFFFFFFF, 0, 0⟩) ⟨0xFFFFFFFF, 0, 0⟩ [] := ⟨rfl, rfl⟩

theorem witness_CommandsAreAnsweredInOrderOneResponseEach : afterAbc.cmdReady = true := rfl

theorem witness_AssertingResetLoadsTheResetValues :
    (afterAbc.taking [.reset, .reset]).inputs = .reset :: [.reset] ∧
    (afterAbc.taking [.interrupted ⟨1, 0, 0⟩]).inputs = .interrupted ⟨1, 0, 0⟩ :: [] := ⟨rfl, rfl⟩

theorem witness_NopWritesOnlyStatus : (0x00000100 : Word).toNat % 256 = 0 ∧ (0x00000100 : Word) ≠ 0 := by decide

theorem witness_UpdateFoldsTheLanesInOrder :
    (0 : BitVec 3).toNat ≤ 4 ∧ (4 : BitVec 3).toNat ≤ 4 ∧
    ((0x00000502 : Word).toNat % 256 = 2 ∧ 5 ≤ (0x00000502 : Word).toNat / 256 % 8) ∧
    ((0x00000802 : Word).toNat % 256 = 2 ∧ (0x00000802 : Word).toNat / 2048 ≠ 0) := by decide

theorem witness_LoadRestoresOrRefusesTheOperand :
    ((0xFFF0FFF0 : Word).toNat / 65536 < 65521 ∧ (0xFFF0FFF0 : Word).toNat % 65536 < 65521) ∧
    65521 ≤ (0xFFF10000 : Word).toNat / 65536 ∧ 65521 ≤ (0x0000FFF1 : Word).toNat % 65536 := by decide

theorem witness_LoadRestoresWhatFinalSaved :
    (holding 0xFFF0 0xFFF0).s1.toNat < 65521 ∧ (holding 0xFFF0 0xFFF0).s2.toNat < 65521 := by decide

theorem witness_VerifyComparesAllThirtyTwoBits :
    (0x024D0127 : Word).toNat = afterAbc.s2.toNat * 65536 + afterAbc.s1.toNat ∧
    (0x024D0128 : Word).toNat ≠ afterAbc.s2.toNat * 65536 + afterAbc.s1.toNat := by decide

theorem witness_OnlyTheRightTrailerVerifies :
    (0x27014D02 : Word) ≠ afterAbc.ck ∧ wireBytes afterAbc.ck = [0x02, 0x4D, 0x01, 0x27] := by decide

theorem witness_CombineAppendsOrReports :
    (afterAbc.cfg.hasCombine = true ∧ (0xFFF0FFF0 : Word).toNat / 65536 < 65521 ∧ (0xFFF0FFF0 : Word).toNat % 65536 < 65521) ∧
    65521 ≤ (0xFFF10000 : Word).toNat / 65536 ∧ 65521 ≤ (0x0000FFF1 : Word).toNat % 65536 ∧
    (noCombine afterAbc).cfg.hasCombine = false := by decide

/-- "Wiki" then "pedia" (V40), with the length 65526 ≡ 5 of V43. -/
theorem witness_CombineIsTheChecksumOfTheConcatenation :
    (holding 0x03DA 0x0195).cfg.hasCombine = true ∧ fresh.s1 < 65521 ∧ fresh.s2 < 65521 ∧
    (holding 0x03DA 0x0195).acc = foldSeq fresh [0x57, 0x69, 0x6B, 0x69] ∧
    (65526 : Word).toNat % 65521 = ([0x70, 0x65, 0x64, 0x69, 0x61] : List Byte).length % 65521 := by decide

theorem witness_UpdatesDependOnlyOnTheByteStream :
    ∀ u ∈ ([(4, 0x696B6957), (0, 0), (4, 0x69646570), (1, 0x61)] : List (BitVec 3 × Word)), u.1.toNat ≤ 4 := by simp

theorem witness_ChangingOneByteChangesTheChecksum : (0x00 : Byte) ≠ 0xFF := by decide

theorem witness_ChecksumGoesOnTheWireBigEndian : wireBytes (holding 0x11E6 0x0398).ck = [0x11, 0xE6, 0x03, 0x98] := by decide

theorem witness_NmaxIsTheLargestSafeRun :
    (16 ≤ 18 ∧ 2 ≤ nmax 18) ∧ 17 < 18 ∧
    ((⟨65520, 65520, 0⟩ : Datapath).a1 ≤ 65520 ∧ (⟨65520, 65520, 0⟩ : Datapath).a2 ≤ 65520 ∧
      ([0xFF, 0xFF] : List Byte).length ≤ nmax 18) := by decide +kernel

theorem witness_DelayedReductionEqualsPerByteFold :
    18 ≤ 32 ∧ (⟨65520, 65520, 0⟩ : Datapath).InBounds 32 ∧ (⟨65520 + 255, 65520 + 65775, 1⟩ : Datapath).InBounds 18 :=
  ⟨by decide, ⟨by decide +kernel, by decide, by decide⟩, ⟨by decide +kernel, by decide, by decide⟩⟩

theorem witness_ParseChecksThenReturnsTheDescriptor :
    (0x8F00 / 256 % 256) % 16 ≠ 8 ∧
    ((0x881C / 256 % 256) % 16 = 8 ∧ 7 < (0x881C / 256 % 256) / 16) ∧
    ((0x789D / 256 % 256) % 16 = 8 ∧ (0x789D / 256 % 256) / 16 ≤ 7 ∧ (0x789D / 256 % 256 * 256 + 0x789D % 256) % 31 ≠ 0) ∧
    ((0x789C / 256 % 256) % 16 = 8 ∧ (0x789C / 256 % 256) / 16 ≤ 7 ∧ (0x789C / 256 % 256 * 256 + 0x789C % 256) % 31 = 0) := by
  decide

theorem witness_SerializeChecksThenReturnsTheHeader :
    0x77 % 16 ≠ 8 ∧ (0x88 % 16 = 8 ∧ 7 < 0x88 / 16 % 16) ∧ (0x9C78 % 16 = 8 ∧ 0x9C78 / 16 % 16 ≤ 7) ∧
    ((7 * 16 + 8) * 256 + (0 * 64 + 1 * 32) + 31) % 31 = 0 := by decide

theorem witness_CheckBitsAreUniqueButForTwoHeaders : 7 ≤ 7 ∧ 1 ≤ 1 ∧ 3 ≤ 3 := by decide

theorem witness_HeaderRoundTrips :
    ((0x9C78 : Word).toNat % 16 = 8 ∧ (0x9C78 : Word).toNat / 16 % 16 ≤ 7) ∧
    ValidHeader 0x789C ∧ ValidHeader 0x783F ∧ ValidHeader 0x68BF := by
  refine ⟨by decide, ?_, ?_, ?_⟩ <;> unfold ValidHeader <;> decide

theorem witness_DescriptorLayoutKeepsEveryField :
    (0xFFFF9C78 : Word).toNat % 2 ^ 16 = (0x00009C78 : Word).toNat % 2 ^ 16 := by decide

theorem witness_EveryCommandReportsTheFirstErrorThatApplies :
    Offers (afterAbc.offered ⟨5, 0x27014D02, 0⟩) ⟨5, 0x27014D02, 0⟩ [] ∧
    reportedCode afterAbc ⟨5, 0x27014D02, 0⟩ = 4 ∧ reportedCode afterAbc ⟨4, 0xFFF10000, 0⟩ = 6 := by
  refine ⟨⟨rfl, rfl⟩, ?_, ?_⟩ <;> unfold reportedCode <;> decide

theorem witness_ErrorsChangeOnlyResultAndStatus :
    Offers (afterAbc.offered ⟨4, 0xFFF10000, 0⟩) ⟨4, 0xFFF10000, 0⟩ [] ∧
    step (afterAbc.offered ⟨4, 0xFFF10000, 0⟩) = .next (afterAbc.raise .invalidState) ∧
    (afterAbc.raise .invalidState).status ≠ 0 := ⟨⟨rfl, rfl⟩, rfl, by decide⟩

theorem witness_OnlyFourCommandsWriteTheAccumulators :
    exec .ceInit afterAbc = .next ((afterAbc.setAcc fresh).respond .ok fresh.ck) ∧
    exec (.ceLoad 0xFFF10000) afterAbc = .next (afterAbc.raise .invalidState) ∧
    (afterAbc.raise .invalidState).status ≠ 0 := ⟨rfl, rfl, by decide⟩

theorem witness_ResetMeetsTheInvariant : Config.legal { accWidth := 18, hasCombine := false } := by decide

/-- A state in the middle of a run: A1 and A2 unreduced, RUN = 2. -/
def midRun : State :=
  { State.reset with
    s1 := 509, s2 := 762, hidden := ⟨65521 + 509, 65521 + 762, 2⟩, cmdReady := true, inputs := [.command ⟨0x402, 0xFFFFFFFF, 0⟩] }

theorem midRun_inv : midRun.Inv :=
  ⟨by decide, by decide, by decide, by decide, ⟨by decide +kernel, by decide, by decide⟩, by decide, by decide⟩

theorem witness_EveryStepKeepsTheInvariant : midRun.Inv ∧ ∃ t, step midRun = .next t := by
  refine ⟨midRun_inv, ?_⟩
  obtain ⟨c, rest, t, -, -, h, -, -⟩ | ⟨-, h⟩ | ⟨rest, -, h⟩ := step_cases midRun
  · exact ⟨t, h⟩
  · exact ⟨_, h⟩
  · exact ⟨_, h⟩

theorem witness_OutputsAreTheReducedDatapath : midRun.Inv := midRun_inv

theorem witness_AssemblerFollowsTheSyntaxTable : (0xFFFFFFFF : Nat) < 2 ^ 32 ∧ 2 ^ 32 ≤ (0x100000000 : Nat) := by decide

theorem witness_FoldExpansionFoldsTheBytes :
    (foldInstrs [0x57, 0x69, 0x6B, 0x69, 0x70])[1]? = some (.ceUpdate 1 0x00000070) := by decide

end Sys2Proof.Tests
end

section
/-! O46: ACC_WIDTH and the hidden registers are never observed (00_scope.md R8, 10_state.md R29). Replacing them commutes with
every step, up to what the datapath then holds; so runs from the two states answer alike. -/

namespace Sys2Proof.Machine

/-- The machine of ACC_WIDTH `w` and hidden registers `d` that is otherwise `s`. -/
def State.withHidden (s : State) (w : Nat) (d : Datapath) : State :=
  { s with cfg := { s.cfg with accWidth := w }, hidden := d }

@[simp] theorem State.withHidden_result (s : State) (w : Nat) (d : Datapath) : (s.withHidden w d).result = s.result := rfl
@[simp] theorem State.withHidden_status (s : State) (w : Nat) (d : Datapath) : (s.withHidden w d).status = s.status := rfl
@[simp] theorem State.withHidden_cmdReady (s : State) (w : Nat) (d : Datapath) : (s.withHidden w d).cmdReady = s.cmdReady := rfl
@[simp] theorem State.withHidden_rspValid (s : State) (w : Nat) (d : Datapath) : (s.withHidden w d).rspValid = s.rspValid := rfl
@[simp] theorem State.withHidden_inputs (s : State) (w : Nat) (d : Datapath) : (s.withHidden w d).inputs = s.inputs := rfl
@[simp] theorem State.withHidden_taking (s : State) (w : Nat) (d : Datapath) (rest : List HostInput) :
    (s.withHidden w d).taking rest = (s.taking rest).withHidden w d := rfl
@[simp] theorem State.withHidden_wait (s : State) (w : Nat) (d : Datapath) :
    (s.withHidden w d).wait = s.wait.withHidden w d := rfl

/-- Two answers agree but for the hidden part: the second is a next state that is the first's with ACC_WIDTH `w` and some
hidden registers. -/
def AgreesUpToHidden (w : Nat) (r r' : Result) : Prop :=
  ∃ (t : State) (d : Datapath), r = .next t ∧ r' = .next (t.withHidden w d)

/-- A response agrees, since it does not write the hidden part. -/
theorem AgreesUpToHidden.respond (s : State) (w : Nat) (d : Datapath) (code : Status) (result : Word) :
    AgreesUpToHidden w (.next (s.respond code result)) (.next ((s.withHidden w d).respond code result)) :=
  ⟨s.respond code result, d, rfl, rfl⟩

/-- Writing a reduced pair agrees, since it sets the hidden registers on both sides from the pair alone. -/
theorem AgreesUpToHidden.set (s : State) (w : Nat) (d : Datapath) (a : Accumulators) (result : Word) :
    AgreesUpToHidden w (.next ((s.setAcc a).respond .ok result)) (.next (((s.withHidden w d).setAcc a).respond .ok result)) :=
  ⟨(s.setAcc a).respond .ok result, .ofReduced a, rfl, rfl⟩

/-- A fold agrees: S1 and S2 are folded from S1 and S2, whatever the datapath does beside them. -/
theorem AgreesUpToHidden.fold (s : State) (w : Nat) (d : Datapath) (bytes : List Byte) (result : Word) :
    AgreesUpToHidden w (.next ((s.foldBytes bytes).respond .ok result))
      (.next (((s.withHidden w d).foldBytes bytes).respond .ok result)) :=
  ⟨(s.foldBytes bytes).respond .ok result, d.foldBytes w bytes, rfl, rfl⟩

theorem exec_withHidden (i : Instr) (s : State) (w : Nat) (d : Datapath) :
    AgreesUpToHidden w (exec i s) (exec i (s.withHidden w d)) := by
  cases i with
  | nop => exact .respond s w d _ _
  | ceInit => exact .set s w d _ _
  | ceUpdate len arg0 => exact .fold s w d _ _
  | ceFinal => exact .respond s w d _ _
  | ceLoad arg0 =>
    simp only [exec]
    cases h : ckLegal arg0 with
    | true =>
      rw [execCeLoad_legal h, execCeLoad_legal h]
      exact .set s w d _ _
    | false =>
      rw [execCeLoad_illegal h, execCeLoad_illegal h]
      exact .respond s w d _ _
  | ceVerify arg0 => exact .respond s w d _ _
  | ceCombine arg0 arg1 =>
    simp only [exec]
    cases hc : s.cfg.hasCombine with
    | false =>
      rw [execCeCombine_absent hc, execCeCombine_absent (s := s.withHidden w d) hc]
      exact .respond s w d _ _
    | true =>
      cases h : ckLegal arg0 with
      | true =>
        rw [execCeCombine_legal hc h, execCeCombine_legal (s := s.withHidden w d) hc h]
        exact .set s w d _ _
      | false =>
        rw [execCeCombine_illegal hc h, execCeCombine_illegal (s := s.withHidden w d) hc h]
        exact .respond s w d _ _
  | hcParse arg0 =>
    simp only [exec, execHcParse]
    cases parseHeader (headerArg arg0) with
    | ok desc => exact .respond s w d _ _
    | error e => exact .respond s w d _ _
  | hcSerialize arg0 =>
    simp only [exec, execHcSerialize]
    cases serializeHeader (Descriptor.ofWord arg0) with
    | ok word => exact .respond s w d _ _
    | error e => exact .respond s w d _ _

theorem runCommand_withHidden (c : Command) (s : State) (w : Nat) (d : Datapath) :
    AgreesUpToHidden w (runCommand c s) (runCommand c (s.withHidden w d)) := by
  unfold runCommand
  cases decode c with
  | ok i => exact exec_withHidden i s w d
  | error e => exact .respond s w d _ _

theorem offerCommand_withHidden (c : Command) (rest : List HostInput) (s : State) (w : Nat) (d : Datapath) :
    AgreesUpToHidden w (offerCommand c rest s) (offerCommand c rest (s.withHidden w d)) := by
  cases h : s.cmdReady with
  | true => simpa [offerCommand, h] using runCommand_withHidden c (s.taking rest) w d
  | false => exact ⟨s.wait, d, by simp [offerCommand, h], by simp [offerCommand, h]⟩

theorem assertReset_withHidden (rest : List HostInput) (s : State) (w : Nat) (d : Datapath) :
    AgreesUpToHidden w (assertReset rest s) (assertReset rest (s.withHidden w d)) :=
  ⟨(s.taking rest).resetEdge, ⟨1, 0, 0⟩, rfl, rfl⟩

theorem step_withHidden (s : State) (w : Nat) (d : Datapath) :
    AgreesUpToHidden w (step s) (step (s.withHidden w d)) := by
  simp only [step, State.withHidden_inputs]
  cases s.inputs with
  | nil => exact ⟨s.wait, d, rfl, rfl⟩
  | cons input rest =>
    cases input with
    | command c => exact offerCommand_withHidden c rest s w d
    | reset => exact assertReset_withHidden rest s w d
    | interrupted c => exact assertReset_withHidden rest s w d

theorem responses_succ {s t : State} (h : step s = .next t) (n : Nat) :
    responses (n + 1) s = (if t.rspValid then [⟨t.result, t.status⟩] else []) ++ responses n t := by
  simp only [responses, h]

theorem stateAfter_succ {s t : State} (h : step s = .next t) (n : Nat) : stateAfter (n + 1) s = stateAfter n t := by
  simp only [stateAfter, h]

theorem observe_succ {s t : State} (h : step s = .next t) (n : Nat) :
    observe (n + 1) s =
      ((if t.rspValid then [⟨t.result, t.status⟩] else []) ++ (observe n t).1, (observe n t).2) := by
  simp only [observe, responses_succ h, stateAfter_succ h]

theorem observe_withHidden (n : Nat) (s : State) (w : Nat) (d : Datapath) :
    observe n (s.withHidden w d) = observe n s := by
  induction n generalizing s d with
  | zero => rfl
  | succ n ih =>
    obtain ⟨t, d', hs, hs'⟩ := step_withHidden s w d
    rw [observe_succ hs, observe_succ hs', ih t d', State.withHidden_rspValid, State.withHidden_result,
      State.withHidden_status]

/-- Settles O46, by induction on the number of steps, each of which keeps the two states alike but for the hidden part. -/
theorem hiddenStateIsNeverObserved : Obligations.HiddenStateIsNeverObserved :=
  observe_withHidden

end Sys2Proof.Machine
end

section
/-! The run bound and the delayed-reduction datapath (40_checksum_engine.md R100 to R105): NMAX is the largest run that cannot
wrap, and one byte keeps the datapath inside it and its outputs those of the fold. -/

namespace Sys2Proof.Machine

theorem runPeak_zero : runPeak 0 = 65520 := by decide

theorem runPeak_strictMono : StrictMono runPeak :=
  strictMono_nat_of_lt_succ fun n => by rw [runPeak_succ]; omega

/-- The search of `nmaxBits` finds the largest safe run, when it lies in the 2^k values from n up. -/
theorem le_nmaxBits_iff {limit k n : Nat} (low : runPeak n ≤ limit) (high : limit < runPeak (n + 2 ^ k)) (m : Nat) :
    m ≤ nmaxBits limit k n ↔ runPeak m ≤ limit := by
  induction k generalizing n with
  | zero =>
    refine ⟨fun hm => (runPeak_strictMono.monotone hm).trans low, fun hm => ?_⟩
    exact Nat.lt_succ_iff.1 (runPeak_strictMono.lt_iff_lt.1 (hm.trans_lt high))
  | succ k ih =>
    simp only [nmaxBits]
    split
    case isTrue h => exact ih h (by rwa [add_assoc, ← two_mul, ← pow_succ'])
    case isFalse h => exact ih low (not_le.1 h)

/-- NMAX is the largest run whose peak fits `width` bits (40_checksum_engine.md R102). -/
theorem le_nmax_iff {width : Nat} (hw : 16 ≤ width) (n : Nat) : n ≤ nmax width ↔ runPeak n ≤ 2 ^ width - 1 := by
  have hpow : 2 ^ 16 ≤ 2 ^ width := Nat.pow_le_pow_right (by decide) hw
  refine le_nmaxBits_iff ?_ ?_ n
  · rw [runPeak_zero]
    omega
  · have := runPeak_strictMono.le_apply (x := 0 + 2 ^ width)
    omega

/-- Every legal width has room for a byte after a reduction. -/
theorem nmax_pos {width : Nat} (hw : 18 ≤ width) : 0 < nmax width := by
  have hpow : 2 ^ 18 ≤ 2 ^ width := Nat.pow_le_pow_right (by decide) hw
  have hpeak : runPeak 1 ≤ 2 ^ width - 1 := by
    have : runPeak 1 = 131295 := by decide
    omega
  exact (le_nmax_iff (by omega) 1).2 hpeak

/-- Within the bound, the peak after one more byte still fits, so that nothing wraps (40_checksum_engine.md R101). -/
theorem Datapath.InBounds.sum_le {width : Nat} {d : Datapath} (h : d.InBounds width) (b : Byte) :
    d.a2 + (d.a1 + b.toNat) ≤ runPeak (d.run + 1) := by
  have := h.a1_le
  have := h.a2_le
  have := b.isLt
  rw [runPeak_succ]
  omega

theorem Datapath.InBounds.addByte_eq {width : Nat} (hw : 16 ≤ width) {d : Datapath} (h : d.InBounds width) (b : Byte) :
    d.addByte width b = ⟨d.a1 + b.toNat, d.a2 + (d.a1 + b.toNat), d.run + 1⟩ := by
  have hfits : runPeak (d.run + 1) ≤ 2 ^ width - 1 := (le_nmax_iff hw _).1 h.run_lt
  have := h.sum_le b
  have := Nat.two_pow_pos width
  exact Datapath.addByte_exact (by omega)

/-- The exact additions, reduced, are the fold of the reduced pair. -/
theorem Datapath.reduced_add (d : Datapath) (b : Byte) (run : Nat) :
    (⟨d.a1 + b.toNat, d.a2 + (d.a1 + b.toNat), run⟩ : Datapath).reduced = fold d.reduced b := by
  simp [Datapath.reduced, fold, Nat.add_mod]

theorem Datapath.InBounds.foldByte_reduced {width : Nat} (hw : 16 ≤ width) {d : Datapath} (h : d.InBounds width) (b : Byte) :
    (d.foldByte width b).reduced = fold d.reduced b := by
  obtain ⟨-, hfold⟩ | ⟨-, hfold⟩ := d.foldByte_cases width b
  · rw [hfold, Datapath.reduce_reduced, h.addByte_eq hw, Datapath.reduced_add]
  · rw [hfold, h.addByte_eq hw, Datapath.reduced_add]

/-- A reduced pair starts a run inside the bound. -/
theorem Datapath.ofReduced_inBounds {width : Nat} (hpos : 0 < nmax width) {a : Accumulators} (ha : a.Reduced) :
    (Datapath.ofReduced a).InBounds width where
  run_lt := hpos
  a1_le := by
    have : a.s1 < 65521 := ha.1
    simp only [Datapath.ofReduced]
    omega
  a2_le := by
    have : a.s2 < 65521 := ha.2
    simp only [Datapath.ofReduced, runPeak_zero]
    omega

@[simp] theorem Datapath.reduced_ofReduced {a : Accumulators} (ha : a.Reduced) : (Datapath.ofReduced a).reduced = a := by
  simp [Datapath.reduced, Datapath.ofReduced, Nat.mod_eq_of_lt ha.1, Nat.mod_eq_of_lt ha.2]

theorem Datapath.reduced_reduced (d : Datapath) : d.reduced.Reduced :=
  ⟨Nat.mod_lt _ modulus_pos, Nat.mod_lt _ modulus_pos⟩

theorem Datapath.reduce_eq_ofReduced (d : Datapath) : d.reduce = .ofReduced d.reduced := rfl

theorem Datapath.InBounds.foldByte {width : Nat} (hw : 16 ≤ width) {d : Datapath} (h : d.InBounds width) (b : Byte) :
    (d.foldByte width b).InBounds width := by
  obtain ⟨-, hfold⟩ | ⟨hne, hfold⟩ := d.foldByte_cases width b
  · rw [hfold, Datapath.reduce_eq_ofReduced]
    exact Datapath.ofReduced_inBounds (Nat.zero_lt_of_lt h.run_lt) (Datapath.reduced_reduced _)
  · rw [hfold, h.addByte_eq hw]
    exact {
      run_lt := lt_of_le_of_ne h.run_lt hne
      a1_le := by
        have := h.a1_le
        have := b.isLt
        dsimp only
        omega
      a2_le := h.sum_le b }

/-- A byte sequence keeps the datapath inside the bound (40_checksum_engine.md R105). -/
theorem Datapath.InBounds.foldBytes {width : Nat} (hw : 16 ≤ width) {d : Datapath} (h : d.InBounds width)
    (bytes : List Byte) : (d.foldBytes width bytes).InBounds width := by
  induction bytes generalizing d with
  | nil => exact h
  | cons b bytes ih => exact ih (h.foldByte hw b)

/-- What the datapath outputs is the per-byte fold (40_checksum_engine.md R103). -/
theorem Datapath.InBounds.foldBytes_reduced {width : Nat} (hw : 16 ≤ width) {d : Datapath} (h : d.InBounds width)
    (bytes : List Byte) : (d.foldBytes width bytes).reduced = foldSeq d.reduced bytes := by
  induction bytes generalizing d with
  | nil => rfl
  | cons b bytes ih =>
    rw [Datapath.foldBytes_cons, foldSeq_cons, ih (h.foldByte hw b), h.foldByte_reduced hw b]

end Sys2Proof.Machine
end

section
/-! O47 and O48: the invariant at reset and under every step. Its clauses about the registers say that S1 and S2 are what the
datapath outputs; each way a command can end (`Ends`) keeps that. -/

namespace Sys2Proof.Machine

/-- Writing a reduced pair into the 16-bit registers loses nothing. -/
theorem Accumulators.Reduced.narrow {a : Accumulators} (ha : a.Reduced) :
    (⟨(BitVec.ofNat 16 a.s1).toNat, (BitVec.ofNat 16 a.s2).toNat⟩ : Accumulators) = a := by
  rw [BitVec.toNat_ofNat, BitVec.toNat_ofNat, Nat.mod_eq_of_lt (ha.1.trans modulus_lt),
    Nat.mod_eq_of_lt (ha.2.trans modulus_lt)]

theorem State.setAcc_acc (s : State) {a : Accumulators} (ha : a.Reduced) : (s.setAcc a).acc = a :=
  ha.narrow

theorem State.foldBytes_acc {s : State} (hs : s.acc.Reduced) (bytes : List Byte) :
    (s.foldBytes bytes).acc = foldSeq s.acc bytes :=
  (foldSeq_reduced hs bytes).narrow

/-- That S1 and S2 are below P follows from their being the datapath's outputs. -/
theorem State.inv_iff (s : State) :
    s.Inv ↔ s.cfg.legal ∧ s.status.toNat ≤ 7 ∧ s.hidden.InBounds s.cfg.accWidth ∧ s.acc = s.hidden.reduced := by
  constructor
  · rintro ⟨legal, -, -, status, bounded, s1, s2⟩
    exact ⟨legal, status, bounded, by simp [State.acc, Datapath.reduced, s1, s2]⟩
  · rintro ⟨legal, status, bounded, acc⟩
    have s1 : s.s1.toNat = s.hidden.a1 % modulus := congrArg Accumulators.s1 acc
    have s2 : s.s2.toNat = s.hidden.a2 % modulus := congrArg Accumulators.s2 acc
    exact ⟨legal, s1 ▸ Nat.mod_lt _ modulus_pos, s2 ▸ Nat.mod_lt _ modulus_pos, status, bounded, s1, s2⟩

theorem State.Inv.acc_reduced {s : State} (h : s.Inv) : s.acc.Reduced := ⟨h.s1_lt, h.s2_lt⟩

/-- A state whose accumulators and hidden registers are those of one reduced pair meets the invariant. -/
theorem State.inv_of_ofReduced {s : State} {a : Accumulators} (legal : s.cfg.legal) (status : s.status.toNat ≤ 7)
    (ha : a.Reduced) (acc : s.acc = a) (hidden : s.hidden = .ofReduced a) : s.Inv := by
  rw [State.inv_iff, acc, hidden]
  exact ⟨legal, status, Datapath.ofReduced_inBounds (nmax_pos legal) ha, (Datapath.reduced_ofReduced ha).symm⟩

theorem State.resetWith_inv {cfg : Config} (legal : cfg.legal) (inputs : List HostInput) :
    (State.resetWith cfg inputs).Inv :=
  State.inv_of_ofReduced legal (by simp) fresh_reduced rfl rfl

theorem State.Inv.taking {s : State} (h : s.Inv) (rest : List HostInput) : (s.taking rest).Inv :=
  (State.inv_iff _).2 ((State.inv_iff s).1 h)

theorem State.Inv.wait {s : State} (h : s.Inv) : s.wait.Inv :=
  (State.inv_iff _).2 ((State.inv_iff s).1 h)

theorem State.Inv.respond {s : State} (h : s.Inv) (code : Status) (result : Word) : (s.respond code result).Inv := by
  obtain ⟨legal, -, bounded, acc⟩ := (State.inv_iff s).1 h
  exact (State.inv_iff _).2 ⟨legal, code.code_le, bounded, acc⟩

theorem State.Inv.setAcc {s : State} (h : s.Inv) {a : Accumulators} (ha : a.Reduced) : (s.setAcc a).Inv :=
  State.inv_of_ofReduced h.cfg_legal h.status_le ha (s.setAcc_acc ha) (s.setAcc_hidden a)

theorem State.Inv.foldBytes {s : State} (h : s.Inv) (bytes : List Byte) : (s.foldBytes bytes).Inv := by
  obtain ⟨legal, status, bounded, acc⟩ := (State.inv_iff s).1 h
  have width : 16 ≤ s.cfg.accWidth := le_trans (by decide) legal
  refine (State.inv_iff _).2 ⟨legal, status, bounded.foldBytes width bytes, ?_⟩
  calc (s.foldBytes bytes).acc
    _ = foldSeq s.acc bytes := State.foldBytes_acc h.acc_reduced bytes
    _ = foldSeq s.hidden.reduced bytes := by rw [acc]
    _ = (s.hidden.foldBytes s.cfg.accWidth bytes).reduced := (bounded.foldBytes_reduced width bytes).symm

theorem Ends.keeps_inv {s t : State} (ends : Ends s t) (h : s.Inv) : t.Inv := by
  cases ends with
  | respond code result => exact h.respond code result
  | set a reduced result => exact (h.setAcc reduced).respond .ok result
  | fold bytes result => exact (h.foldBytes bytes).respond .ok result

/-- A step keeps the invariant, whatever it does: run a command, wait or reset. -/
theorem step_keeps_inv {s : State} (h : s.Inv) : ∃ t, step s = .next t ∧ t.Inv := by
  obtain ⟨c, rest, t, -, -, hstep, -, ends⟩ | ⟨-, hstep⟩ | ⟨rest, -, hstep⟩ := step_cases s
  · exact ⟨t, hstep, ends.keeps_inv (h.taking rest)⟩
  · exact ⟨_, hstep, h.wait⟩
  · exact ⟨_, hstep, State.resetWith_inv h.cfg_legal rest⟩

/-- Settles O48, by the three things a step can do and the three ways a command can end. -/
theorem everyStepKeepsTheInvariant : Obligations.EveryStepKeepsTheInvariant := by
  intro s t h hstep
  obtain ⟨t', hstep', hinv⟩ := step_keeps_inv h
  obtain rfl : t' = t := by simpa [hstep'] using hstep
  exact hinv

/-- Settles O47: reset leaves the fresh pair, which is reduced, in the accumulators and in the datapath. -/
theorem resetMeetsTheInvariant : Obligations.ResetMeetsTheInvariant :=
  ⟨State.resetWith_inv (by decide) [], fun _ inputs legal => State.resetWith_inv legal inputs⟩

end Sys2Proof.Machine
end

section
/-! O11 and O28: the reset values and the checksum value (10_state.md R25, R32). -/

namespace Sys2Proof.Machine

theorem ckOf_inj {s1 s2 t1 t2 : Half} : ckOf s1 s2 = ckOf t1 t2 ↔ s1 = t1 ∧ s2 = t2 := by
  constructor
  · intro h
    exact ⟨by rw [← ckLo_ckOf s1 s2, h, ckLo_ckOf], by rw [← ckHi_ckOf s1 s2, h, ckHi_ckOf]⟩
  · rintro ⟨rfl, rfl⟩
    rfl

theorem State.ck_toNat (s : State) : s.ck.toNat = s.s2.toNat * 65536 + s.s1.toNat := ckOf_toNat s.s1 s.s2

/-- Settles O28: the halves of the checksum value are the registers. -/
theorem checksumValueDeterminesTheAccumulators : Obligations.ChecksumValueDeterminesTheAccumulators := by
  refine ⟨fun s => ⟨s.ck_toNat, ?_, ?_⟩, fun s t => ckOf_inj⟩
  · rw [← ckHi_toNat, State.ck, ckHi_ckOf]
  · rw [← ckLo_toNat, State.ck, ckLo_ckOf]

/-- Settles O11: every register by the lemma about its reset value, and CE_FINAL by the checksum value of (1, 0). -/
theorem resetValuesAreTheSpecs : Obligations.ResetValuesAreTheSpecs :=
  ⟨State.resetWith_s1 _ _, State.resetWith_s2 _ _, State.resetWith_result _ _, State.resetWith_status _ _,
    State.resetWith_hidden _ _, _, rfl, by decide⟩

end Sys2Proof.Machine
end

section
/-! O40 and O44: what each command leaves alone, and what it leaves in RESULT (10_state.md R22, R23, R26, R30). -/

namespace Sys2Proof.Machine

theorem sameChecksum_respond (s : State) (code : Status) (result : Word) : SameChecksum s (s.respond code result) :=
  ⟨rfl, rfl, rfl⟩

theorem sameEnvironment_respond (s : State) (code : Status) (result : Word) : SameEnvironment s (s.respond code result) :=
  ⟨rfl, rfl, rfl⟩

/-- No command writes the parameters, `cmd_ready` or the host's inputs. -/
theorem Ends.sameEnvironment {s t : State} (ends : Ends s t) : SameEnvironment s t := by
  cases ends with
  | respond code result => exact sameEnvironment_respond s code result
  | set a reduced result => exact ⟨rfl, rfl, rfl⟩
  | fold bytes result => exact ⟨rfl, rfl, rfl⟩

theorem toNat_append_eq_add {m n : Nat} (x : BitVec m) (y : BitVec n) :
    (x ++ y).toNat = x.toNat * 2 ^ n + y.toNat := by
  rw [BitVec.toNat_append, ← Nat.shiftLeft_add_eq_or_of_lt y.isLt, Nat.shiftLeft_eq]

/-- The descriptor layout leaves the high half 0 (30_encoding.md R68). -/
theorem Descriptor.toWord_lt (d : Descriptor) : d.toWord.toNat < 65536 := by
  obtain ⟨method, windowInfo, checkBits, hasDictionary, levelHint⟩ := d
  simp only [Descriptor.toWord, toNat_append_eq_add]
  have := method.isLt
  have := windowInfo.isLt
  have := checkBits.isLt
  have := hasDictionary.isLt
  have := levelHint.isLt
  simp
  omega

/-- HC_PARSE ends in a response that ARG0 alone determines, with a 16-bit RESULT. -/
theorem exec_hcParse_respond (arg0 : Word) :
    ∃ (code : Status) (result : Word), result.toNat < 65536 ∧
      ∀ s, exec (.hcParse arg0) s = .next (s.respond code result) := by
  simp only [exec, execHcParse]
  cases parseHeader (headerArg arg0) with
  | ok d => exact ⟨.ok, d.toWord, d.toWord_lt, fun _ => rfl⟩
  | error e => exact ⟨e, 0, by decide, fun _ => rfl⟩

/-- HC_SERIALIZE ends in a response that ARG0 alone determines, with a 16-bit RESULT. -/
theorem exec_hcSerialize_respond (arg0 : Word) :
    ∃ (code : Status) (result : Word), result.toNat < 65536 ∧
      ∀ s, exec (.hcSerialize arg0) s = .next (s.respond code result) := by
  simp only [exec, execHcSerialize]
  cases serializeHeader (Descriptor.ofWord arg0) with
  | ok w => exact ⟨.ok, w.zeroExtend 32, (BitVec.toNat_setWidth_of_le (by decide)).trans_lt w.isLt, fun _ => rfl⟩
  | error e => exact ⟨e, 0, by decide, fun _ => rfl⟩

/-- Settles O40: both commands end in a response that ARG0 alone determines. -/
theorem headerCodecIsPure : Obligations.HeaderCodecIsPure := by
  intro s s' arg0 i hi
  have hrespond : ∃ code result, ∀ s, exec i s = .next (s.respond code result) := by
    obtain rfl | rfl : i = .hcParse arg0 ∨ i = .hcSerialize arg0 := by simpa using hi
    · obtain ⟨code, result, -, h⟩ := exec_hcParse_respond arg0
      exact ⟨code, result, h⟩
    · obtain ⟨code, result, -, h⟩ := exec_hcSerialize_respond arg0
      exact ⟨code, result, h⟩
  obtain ⟨code, result, h⟩ := hrespond
  exact ⟨_, _, h s, h s', rfl, rfl, sameChecksum_respond s code result, sameEnvironment_respond s code result⟩

/-- How a command that may write the accumulators ends: with no effect on an error, with the checksum value on OK. -/
def ErrsOrShowsChecksum (s t : State) : Prop :=
  (t.status ≠ 0 → SameChecksum s t) ∧ (t.status = 0 → t.result = t.ck)

theorem ErrsOrShowsChecksum.raise (s : State) {code : Status} (h : code ≠ .ok) : ErrsOrShowsChecksum s (s.raise code) :=
  ⟨fun _ => sameChecksum_respond s code 0, fun ok => absurd (code.code_eq_zero.1 ok) h⟩

theorem ErrsOrShowsChecksum.ok (s u : State) {result : Word} (h : result = u.ck) :
    ErrsOrShowsChecksum s (u.respond .ok result) :=
  ⟨fun err => absurd rfl err, fun _ => h⟩

theorem ckOf_ckLo_ckHi (ck : Word) : ckOf (ckLo ck) (ckHi ck) = ck := by
  apply BitVec.eq_of_toNat_eq
  rw [ckOf_toNat, ckHi_toNat, ckLo_toNat]
  omega

theorem exec_ceLoad_errsOrShowsChecksum (arg0 : Word) (s : State) :
    ∃ t, exec (.ceLoad arg0) s = .next t ∧ ErrsOrShowsChecksum s t := by
  cases h : ckLegal arg0 with
  | true =>
    refine ⟨_, execCeLoad_legal h s, .ok s _ ?_⟩
    simp [State.ck, ckOf_ckLo_ckHi]
  | false => exact ⟨_, execCeLoad_illegal h s, .raise s (by decide)⟩

theorem exec_ceCombine_errsOrShowsChecksum (arg0 arg1 : Word) (s : State) :
    ∃ t, exec (.ceCombine arg0 arg1) s = .next t ∧ ErrsOrShowsChecksum s t := by
  cases hc : s.cfg.hasCombine with
  | false => exact ⟨_, execCeCombine_absent hc arg0 arg1, .raise s (by decide)⟩
  | true =>
    cases h : ckLegal arg0 with
    | true => exact ⟨_, execCeCombine_legal hc h arg1, .ok s _ rfl⟩
    | false => exact ⟨_, execCeCombine_illegal hc h arg1, .raise s (by decide)⟩

/-- Settles O44: the environment by the shapes in which a command ends, the rest instruction by instruction. -/
theorem onlyFourCommandsWriteTheAccumulators : Obligations.OnlyFourCommandsWriteTheAccumulators := by
  intro i s t h
  have henv : SameEnvironment s t := by
    obtain ⟨t', ht', ends⟩ := exec_ends i s
    obtain rfl : t' = t := by simpa [ht'] using h
    exact ends.sameEnvironment
  refine ⟨henv, ?_⟩
  cases i with
  | nop =>
    cases h
    exact ⟨sameChecksum_respond _ _ _, rfl⟩
  | ceInit =>
    cases h
    exact ErrsOrShowsChecksum.ok s (s.setAcc fresh) rfl
  | ceUpdate len arg0 =>
    cases h
    exact ErrsOrShowsChecksum.ok s (s.foldBytes (lanes len.toNat arg0)) rfl
  | ceFinal =>
    cases h
    exact ⟨sameChecksum_respond _ _ _, rfl⟩
  | ceLoad arg0 =>
    obtain ⟨t', ht', hend⟩ := exec_ceLoad_errsOrShowsChecksum arg0 s
    cases ht'.symm.trans h
    exact hend
  | ceVerify arg0 =>
    cases h
    exact ⟨sameChecksum_respond _ _ _, rfl⟩
  | ceCombine arg0 arg1 =>
    obtain ⟨t', ht', hend⟩ := exec_ceCombine_errsOrShowsChecksum arg0 arg1 s
    cases ht'.symm.trans h
    exact hend
  | hcParse arg0 =>
    obtain ⟨code, result, hlt, ht⟩ := exec_hcParse_respond arg0
    cases (ht s).symm.trans h
    exact ⟨sameChecksum_respond _ _ _, hlt⟩
  | hcSerialize arg0 =>
    obtain ⟨code, result, hlt, ht⟩ := exec_hcSerialize_respond arg0
    cases (ht s).symm.trans h
    exact ⟨sameChecksum_respond _ _ _, hlt⟩

end Sys2Proof.Machine
end

section
/-! O29: the checksum value on the wire (20_memory.md R40, R42). Its four wire bytes are its digits in base 256. -/

namespace Sys2Proof.Machine

theorem wireBytes_map_toNat (ck : Word) : (wireBytes ck).map BitVec.toNat =
    [ck.toNat / 2 ^ 24, ck.toNat / 2 ^ 16 % 256, ck.toNat / 2 ^ 8 % 256, ck.toNat % 256] := by
  have top : ck.toNat / 16777216 < 256 := by omega
  simpa [wireBytes, Nat.shiftRight_eq_div_pow] using top

/-- Four bytes are a value's wire bytes exactly when they are its base 256 digits. -/
theorem wireBytes_eq_iff (ck : Word) (t0 t1 t2 t3 : Byte) : wireBytes ck = [t0, t1, t2, t3] ↔
    ck.toNat = t0.toNat * 2 ^ 24 + t1.toNat * 2 ^ 16 + t2.toNat * 2 ^ 8 + t3.toNat := by
  have digits : wireBytes ck = [t0, t1, t2, t3] ↔
      (wireBytes ck).map BitVec.toNat = [t0, t1, t2, t3].map BitVec.toNat :=
    (List.map_injective_iff.2 fun _ _ => BitVec.eq_of_toNat_eq).eq_iff.symm
  rw [digits, wireBytes_map_toNat]
  simp only [List.map_cons, List.map_nil, List.cons.injEq, and_true]
  omega

theorem ofWireBytes_toNat (t0 t1 t2 t3 : Byte) : (ofWireBytes t0 t1 t2 t3).toNat =
    t0.toNat * 2 ^ 24 + t1.toNat * 2 ^ 16 + t2.toNat * 2 ^ 8 + t3.toNat := by
  simp only [ofWireBytes, toNat_append_eq_add]
  omega

/-- Settles O29: the digits of `S2·65536 + S1` are those of S2, then those of S1. -/
theorem checksumGoesOnTheWireBigEndian : Obligations.ChecksumGoesOnTheWireBigEndian := by
  refine ⟨wireBytes_map_toNat, fun s t0 t1 t2 t3 => ?_, fun t0 t1 t2 t3 => ⟨?_, ofWireBytes_toNat t0 t1 t2 t3⟩⟩
  · rw [wireBytes_eq_iff, State.ck_toNat]
    omega
  · rw [wireBytes_eq_iff, ofWireBytes_toNat]

end Sys2Proof.Machine
end

section
/-! O10: commands are answered in issue order, one response each (20_memory.md R44, R49). A command's answer does not depend
on the host's later inputs, and it leaves the block ready, so the next step accepts the next command. -/

namespace Sys2Proof.Machine

/-- An instruction neither reads nor writes the host's inputs. -/
theorem exec_taking (i : Instr) (s : State) (rest : List HostInput) :
    ∃ t, exec i s = .next t ∧ exec i (s.taking rest) = .next (t.taking rest) := by
  cases i with
  | nop | ceInit | ceFinal => exact ⟨_, rfl, rfl⟩
  | ceUpdate len arg0 => exact ⟨_, rfl, rfl⟩
  | ceVerify arg0 => exact ⟨_, rfl, rfl⟩
  | ceLoad arg0 =>
    cases h : ckLegal arg0 with
    | true => exact ⟨_, execCeLoad_legal h s, execCeLoad_legal h (s.taking rest)⟩
    | false => exact ⟨_, execCeLoad_illegal h s, execCeLoad_illegal h (s.taking rest)⟩
  | ceCombine arg0 arg1 =>
    cases hc : s.cfg.hasCombine with
    | false => exact ⟨_, execCeCombine_absent hc _ _, execCeCombine_absent (s := s.taking rest) hc _ _⟩
    | true =>
      cases h : ckLegal arg0 with
      | true => exact ⟨_, execCeCombine_legal hc h _, execCeCombine_legal (s := s.taking rest) hc h _⟩
      | false => exact ⟨_, execCeCombine_illegal hc h _, execCeCombine_illegal (s := s.taking rest) hc h _⟩
  | hcParse arg0 =>
    obtain ⟨code, result, -, h⟩ := exec_hcParse_respond arg0
    exact ⟨_, h s, h (s.taking rest)⟩
  | hcSerialize arg0 =>
    obtain ⟨code, result, -, h⟩ := exec_hcSerialize_respond arg0
    exact ⟨_, h s, h (s.taking rest)⟩

theorem runCommand_taking (c : Command) (s : State) (rest : List HostInput) :
    ∃ t, runCommand c s = .next t ∧ runCommand c (s.taking rest) = .next (t.taking rest) := by
  unfold runCommand
  cases decode c with
  | ok i => exact exec_taking i s rest
  | error e => exact ⟨_, rfl, rfl⟩

theorem Ends.rspValid {s t : State} (ends : Ends s t) : t.rspValid = true := by
  cases ends <;> rfl

/-- The step in which a ready block accepts a command: it answers as the command alone does, and is ready again. -/
theorem step_command {s : State} (ready : s.cmdReady = true) (c : Command) (rest : List HostInput) :
    ∃ t, runCommand c s = .next t ∧ step (s.taking (.command c :: rest)) = .next (t.taking rest) ∧
      t.rspValid = true ∧ t.cmdReady = true := by
  obtain ⟨t, hrun, htaking⟩ := runCommand_taking c s rest
  obtain ⟨t', hrun', ends⟩ := runCommand_ends c s
  cases hrun.symm.trans hrun'
  obtain ⟨-, hready, -⟩ := ends.sameEnvironment
  have offers : Offers (s.taking (.command c :: rest)) c rest := ⟨ready, rfl⟩
  exact ⟨t, hrun, (step_of_offers offers).trans htaking, ends.rspValid, hready.trans ready⟩

theorem commandResponses_cons {c : Command} {s t : State} (h : runCommand c s = .next t) (cs : List Command) :
    commandResponses (c :: cs) s = ⟨t.result, t.status⟩ :: commandResponses cs t := by
  simp only [commandResponses, h]

theorem runCommands_cons {c : Command} {s t : State} (h : runCommand c s = .next t) (cs : List Command) :
    runCommands (c :: cs) s = runCommands cs t := by
  simp only [runCommands, h]

theorem commandResponses_length (cs : List Command) (s : State) : (commandResponses cs s).length = cs.length := by
  induction cs generalizing s with
  | nil => rfl
  | cons c cs ih =>
    obtain ⟨t, hrun, -⟩ := runCommand_ends c s
    rw [commandResponses_cons hrun, List.length_cons, ih, List.length_cons]

theorem responses_eq_commandResponses (cs : List Command) (rest : List HostInput) {s : State} (ready : s.cmdReady = true) :
    responses cs.length (s.taking (cs.map .command ++ rest)) = commandResponses cs s := by
  induction cs generalizing s with
  | nil => rfl
  | cons c cs ih =>
    obtain ⟨t, hrun, hstep, hvalid, hready⟩ := step_command ready c (cs.map .command ++ rest)
    simp [responses_succ hstep, commandResponses_cons hrun, hvalid, ih hready]

theorem stateAfter_eq_runCommands (cs : List Command) (rest : List HostInput) {s : State} (ready : s.cmdReady = true) :
    ∃ t, runCommands cs s = .next t ∧ stateAfter cs.length (s.taking (cs.map .command ++ rest)) = t.taking rest := by
  induction cs generalizing s with
  | nil => exact ⟨s, rfl, rfl⟩
  | cons c cs ih =>
    obtain ⟨t, hrun, hstep, -, hready⟩ := step_command ready c (cs.map .command ++ rest)
    obtain ⟨u, hu, hafter⟩ := ih hready
    exact ⟨u, (runCommands_cons hrun cs).trans hu, (stateAfter_succ hstep cs.length).trans hafter⟩

/-- Settles O10, by induction on the commands: each step accepts the first and leaves the block ready for the others. -/
theorem commandsAreAnsweredInOrderOneResponseEach : Obligations.CommandsAreAnsweredInOrderOneResponseEach :=
  fun cs rest s ready =>
    ⟨responses_eq_commandResponses cs rest ready, commandResponses_length cs s, stateAfter_eq_runCommands cs rest ready⟩

end Sys2Proof.Machine
end

section
/-! O45: which commands read only and which are idempotent (20_memory.md R46). -/

namespace Sys2Proof.Machine

/-- A command that only reads ends in a response, and a second copy gives the same response. -/
theorem exec_reading_respond (s : State) (a : Word) :
    ∀ i ∈ [Instr.ceFinal, .ceVerify a, .hcParse a, .hcSerialize a], ∃ (code : Status) (result : Word),
      exec i s = .next (s.respond code result) ∧
      exec i (s.respond code result) = .next (s.respond code result) := by
  intro i hi
  obtain rfl | rfl | rfl | rfl : i = .ceFinal ∨ i = .ceVerify a ∨ i = .hcParse a ∨ i = .hcSerialize a := by
    simpa using hi
  · exact ⟨.ok, s.ck, rfl, rfl⟩
  · exact ⟨compareStatus a s.ck, s.ck, rfl, rfl⟩
  · obtain ⟨code, result, -, h⟩ := exec_hcParse_respond a
    exact ⟨code, result, h s, h (s.respond code result)⟩
  · obtain ⟨code, result, -, h⟩ := exec_hcSerialize_respond a
    exact ⟨code, result, h s, h (s.respond code result)⟩

/-- The pair that CE_LOAD writes comes from ARG0 alone, so a second copy writes it again; an illegal one is refused again. -/
theorem exec_ceLoad_idempotent (arg0 : Word) (s : State) :
    ∃ t, exec (.ceLoad arg0) s = .next t ∧ exec (.ceLoad arg0) t = .next t := by
  cases h : ckLegal arg0 with
  | true => exact ⟨_, execCeLoad_legal h s, execCeLoad_legal h _⟩
  | false => exact ⟨_, execCeLoad_illegal h s, execCeLoad_illegal h _⟩

/-- Folding the byte 1 twice from reset takes S1 from 1 to 2 and then to 3. -/
theorem exec_ceUpdate_not_idempotent :
    ∃ (s : State) (a : Word), ∃ t u, exec (.ceUpdate 1 a) s = .next t ∧ exec (.ceUpdate 1 a) t = .next u ∧ u ≠ t := by
  refine ⟨State.reset, 0x00000001, _, _, rfl, rfl, fun h => ?_⟩
  exact absurd (congrArg State.s1 h) (by decide)

/-- Appending a sequence of one byte 1, whose checksum is 0x00020002, twice from reset takes S1 from 1 to 2 and then to 3. -/
theorem exec_ceCombine_not_idempotent :
    ∃ (s : State) (a b : Word), ∃ t u, exec (.ceCombine a b) s = .next t ∧ exec (.ceCombine a b) t = .next u ∧ u ≠ t := by
  have legal : ckLegal 0x00020002 = true := by decide
  refine ⟨State.reset, 0x00020002, 1, _, _, execCeCombine_legal rfl legal 1, execCeCombine_legal rfl legal 1, fun h => ?_⟩
  exact absurd (congrArg State.s1 h) (by decide)

/-- Settles O45: a reading command only responds; CE_INIT and CE_LOAD write a pair that does not depend on the state. -/
theorem readingHasNoSideEffect : Obligations.ReadingHasNoSideEffect := by
  refine ⟨fun s a i hi => ?_, fun s a i hi => ?_, exec_ceUpdate_not_idempotent, exec_ceCombine_not_idempotent⟩
  · obtain hread | rfl | rfl :
        i ∈ [Instr.ceFinal, .ceVerify a, .hcParse a, .hcSerialize a] ∨ i = .ceInit ∨ i = .ceLoad a := by
      simpa [or_assoc] using hi
    · obtain ⟨code, result, hfirst, hsecond⟩ := exec_reading_respond s a i hread
      exact ⟨_, hfirst, hsecond⟩
    · exact ⟨_, rfl, rfl⟩
    · exact exec_ceLoad_idempotent a s
  · obtain ⟨code, result, hfirst, -⟩ := exec_reading_respond s a i hi
    exact ⟨_, hfirst, sameChecksum_respond s code result⟩

end Sys2Proof.Machine
end

section
/-! O1, O2 and O3: decoding and encoding (30_encoding.md R61 to R64). A command word is its three fields; the decoder takes
the instruction that OPC selects and then checks RSV and LEN. -/

namespace Sys2Proof.Machine

/-- A command word is determined by its fields (30_encoding.md R61). -/
theorem cmd_eq_iff_fields {x y : Word} :
    x = y ↔ rsvOf x = rsvOf y ∧ lenOf x = lenOf y ∧ opcOf x = opcOf y := by
  simp only [← BitVec.toNat_inj, rsvOf_toNat, lenOf_toNat, opcOf_toNat]
  omega

theorem cmd_eq_packCmd {cmd : Word} (hrsv : rsvOf cmd = 0) : cmd = packCmd (lenOf cmd) (opcOf cmd) := by
  simp [cmd_eq_iff_fields, hrsv]

/-- The checks of 30_encoding.md R64 that come after the opcode: RSV is 0, and LEN is 0, or at most 4 for CE_UPDATE. -/
def LegalFields (cmd : Word) : Prop :=
  rsvOf cmd = 0 ∧ (opcOf cmd ≠ 0x02 → lenOf cmd = 0) ∧ (opcOf cmd = 0x02 → (lenOf cmd).toNat ≤ 4)

theorem decode_eq_ok_iff (c : Command) (i : Instr) :
    decode c = .ok i ↔ select c = some i ∧ LegalFields c.cmd := by
  unfold decode LegalFields
  cases select c with
  | none => simp
  | some j => grind

/-- An instruction holds the fields and operand words of a transfer that its rule reads (30_encoding.md R61, R70). -/
def HoldsOperands (c : Command) : Instr → Prop
  | .nop | .ceInit | .ceFinal => True
  | .ceUpdate len a => len = lenOf c.cmd ∧ a = c.arg0
  | .ceLoad a | .ceVerify a | .hcParse a | .hcSerialize a => a = c.arg0
  | .ceCombine a b => a = c.arg0 ∧ b = c.arg1

/-- The opcode map read in both directions (30_encoding.md R63). -/
theorem select_eq_some_iff (c : Command) (i : Instr) :
    select c = some i ↔ opcOf c.cmd = i.opcode ∧ HoldsOperands c i := by
  constructor
  · intro h
    unfold select at h
    split at h <;> cases h <;> exact ⟨BitVec.eq_of_toNat_eq ‹_›, by simp [HoldsOperands]⟩
  · rintro ⟨hopc, hold⟩
    cases i <;> simp_all [select, Instr.opcode, HoldsOperands]

/-- The opcodes of the map (30_encoding.md R63). -/
theorem exists_select_eq_some_iff (c : Command) : (∃ i, select c = some i) ↔
    c.cmd.toNat % 256 ∈ [0x00, 0x01, 0x02, 0x03, 0x04, 0x05, 0x06, 0x10, 0x11] := by
  rw [← opcOf_toNat]
  unfold select
  split <;> simp_all

/-- The fields of a well-formed instruction's word pass the checks. -/
theorem legalFields_encode {i : Instr} (h : i.wf = true) : LegalFields (encode i).cmd := by
  refine ⟨rsvOf_packCmd _ _, ?_⟩
  simp only [encode, opcOf_packCmd, lenOf_packCmd]
  cases i with
  | ceUpdate len a => exact ⟨fun hne => absurd rfl hne, fun _ => of_decide_eq_true h⟩
  | nop | ceInit | ceFinal => exact ⟨fun _ => rfl, by decide⟩
  | ceLoad a | ceVerify a | hcParse a | hcSerialize a => exact ⟨fun _ => rfl, by simp [Instr.opcode]⟩
  | ceCombine a b => exact ⟨fun _ => rfl, by simp [Instr.opcode]⟩

theorem select_encode (i : Instr) : select (encode i) = some i := by
  refine (select_eq_some_iff _ _).2 ⟨opcOf_packCmd _ _, ?_⟩
  cases i with
  | nop | ceInit | ceFinal => trivial
  | ceUpdate len a => exact ⟨(lenOf_packCmd _ _).symm, rfl⟩
  | ceLoad a | ceVerify a | hcParse a | hcSerialize a => rfl
  | ceCombine a b => exact ⟨rfl, rfl⟩

/-- Settles O2: OPC selects the instruction, and a well-formed one passes the checks on the fields. -/
theorem decodeOfEncodeIsTheInstruction : Obligations.DecodeOfEncodeIsTheInstruction :=
  fun i wf => (decode_eq_ok_iff _ _).2 ⟨select_encode i, legalFields_encode wf⟩

/-- What decodes is well formed and has the transfer's LEN. -/
theorem wf_and_lenField_of_holdsOperands {c : Command} {i : Instr} (hopc : opcOf c.cmd = i.opcode)
    (hold : HoldsOperands c i) (legal : LegalFields c.cmd) : i.wf = true ∧ i.lenField = lenOf c.cmd := by
  obtain ⟨-, hzero, hle⟩ := legal
  cases i with
  | ceUpdate len a =>
    obtain ⟨rfl, -⟩ := hold
    exact ⟨decide_eq_true (hle hopc), rfl⟩
  | nop | ceInit | ceFinal => exact ⟨rfl, (hzero (by simp [hopc, Instr.opcode])).symm⟩
  | ceLoad a | ceVerify a | hcParse a | hcSerialize a => exact ⟨rfl, (hzero (by simp [hopc, Instr.opcode])).symm⟩
  | ceCombine a b => exact ⟨rfl, (hzero (by simp [hopc, Instr.opcode])).symm⟩

/-- Settles O3: the command word is put together again from the fields that the instruction keeps. -/
theorem encodeOfDecodeIsTheCommand : Obligations.EncodeOfDecodeIsTheCommand := by
  intro c i h
  obtain ⟨hselect, legal⟩ := (decode_eq_ok_iff c i).1 h
  obtain ⟨hopc, hold⟩ := (select_eq_some_iff c i).1 hselect
  obtain ⟨wf, hlen⟩ := wf_and_lenField_of_holdsOperands hopc hold legal
  refine ⟨wf, ?_, ?_⟩
  · calc (encode i).cmd
      _ = packCmd (lenOf c.cmd) (opcOf c.cmd) := by rw [encode, hlen, hopc]
      _ = c.cmd := (cmd_eq_packCmd legal.1).symm
  · cases i with
    | ceUpdate len a =>
      obtain ⟨rfl, rfl⟩ := hold
      exact ⟨lenOf_toNat _, rfl⟩
    | nop | ceInit | ceFinal => trivial
    | ceLoad a | ceVerify a | hcParse a | hcSerialize a => exact hold
    | ceCombine a b => exact hold

/-- Settles O1: each word is one of its row's, with RSV 0. -/
theorem sampleCommandWordsDecode : Obligations.SampleCommandWordsDecode := by
  unfold Obligations.SampleCommandWordsDecode
  decide

end Sys2Proof.Machine
end

section
/-! O4 and O5: which command words decode, by the opcode table (30_encoding.md R63) and by the list of illegal words (R66). -/

namespace Sys2Proof.Machine

/-- The list of illegal words (30_encoding.md R66) is what the checks of R64 leave out. -/
theorem illegal_iff (cmd : Word) : Illegal cmd ↔
    ¬ (cmd.toNat % 256 ∈ [0x00, 0x01, 0x02, 0x03, 0x04, 0x05, 0x06, 0x10, 0x11] ∧ LegalFields cmd) := by
  have hrsv : rsvOf cmd = 0 ↔ cmd.toNat / 2048 = 0 := by rw [← BitVec.toNat_inj, rsvOf_toNat]; rfl
  have hlen : lenOf cmd = 0 ↔ cmd.toNat / 256 % 8 = 0 := by rw [← BitVec.toNat_inj, lenOf_toNat]; rfl
  have hopc : opcOf cmd = 0x02 ↔ cmd.toNat % 256 = 0x02 := by rw [← BitVec.toNat_inj, opcOf_toNat]; rfl
  simp only [Illegal, LegalFields, ne_eq, hrsv, hlen, hopc, lenOf_toNat, not_and_or, Classical.not_imp, not_le,
    Nat.succ_le_iff]

theorem not_illegal_iff_decode_ok (c : Command) : ¬ Illegal c.cmd ↔ ∃ i, decode c = .ok i := by
  simp only [illegal_iff, not_not, decode_eq_ok_iff, exists_and_right, exists_select_eq_some_iff]

theorem illegal_iff_decode_error (c : Command) : Illegal c.cmd ↔ ∃ e, decode c = .error e := by
  rw [← not_iff_not, not_illegal_iff_decode_ok]
  cases decode c <;> simp

/-- A response with RESULT 0 and a status code is all that `raise` is (60_exceptions.md R131). -/
theorem onlyReports_raise (s : State) (code : Status) : OnlyReports s (s.raise code) 0 code.code :=
  ⟨⟨rfl, rfl, rfl⟩, ⟨rfl, rfl, rfl⟩, rfl, rfl, rfl⟩

theorem runCommand_of_ok {c : Command} {i : Instr} (h : decode c = .ok i) (s : State) : runCommand c s = exec i s := by
  simp only [runCommand, h]

theorem runCommand_of_error {c : Command} {e : DecodeError} (h : decode c = .error e) (s : State) :
    runCommand c s = .next (s.raise .illegalCommand) := by
  simp only [runCommand, h, illegalCommand]

theorem decode_nop (a0 a1 : Word) : decode ⟨0, a0, a1⟩ = .ok .nop := by
  have legal : LegalFields 0 := ⟨by decide, by decide, by decide⟩
  have hopc : opcOf 0 = 0x00 := by decide
  exact (decode_eq_ok_iff _ _).2 ⟨(select_eq_some_iff _ _).2 ⟨hopc, trivial⟩, legal⟩

theorem decode_ceCombine (a0 a1 : Word) : decode ⟨6, a0, a1⟩ = .ok (.ceCombine a0 a1) := by
  have legal : LegalFields 6 := ⟨by decide, by decide, by decide⟩
  have hopc : opcOf 6 = 0x06 := by decide
  exact (decode_eq_ok_iff _ _).2 ⟨(select_eq_some_iff _ _).2 ⟨hopc, rfl, rfl⟩, legal⟩

/-- Settles O5: the illegal words are those that fail to decode, and the two errors only report. -/
theorem illegalCommandWordsOnlyReportIllegalCommand : Obligations.IllegalCommandWordsOnlyReportIllegalCommand := by
  refine ⟨illegal_iff_decode_error, fun s c rest offers illegal => ?_, fun a0 a1 => ?_,
    fun s a0 a1 rest offers absent => ?_⟩
  · obtain ⟨e, he⟩ := (illegal_iff_decode_error c).1 illegal
    exact ⟨_, (step_of_offers offers).trans (runCommand_of_error he _), onlyReports_raise _ .illegalCommand⟩
  · exact decode_nop a0 a1
  · have hdecode := decode_ceCombine a0 a1
    have hexec : exec (.ceCombine a0 a1) (s.taking rest) = .next ((s.taking rest).raise .unsupported) :=
      execCeCombine_absent (s := s.taking rest) absent a0 a1
    exact ⟨_, (step_of_offers offers).trans ((runCommand_of_ok hdecode _).trans hexec), onlyReports_raise _ .unsupported⟩

theorem accepts_iff_fields (r : OpcodeRow) (cmd : Word) : r.accepts cmd = true ↔
    rsvOf cmd &&& rsvOf r.mask = rsvOf r.value ∧ lenOf cmd &&& lenOf r.mask = lenOf r.value ∧
      opcOf cmd &&& opcOf r.mask = opcOf r.value := by
  simp only [OpcodeRow.accepts, beq_iff_eq, cmd_eq_iff_fields, rsvOf, lenOf, opcOf, BitVec.extractLsb'_and]

/-- The shape of every row of opcode_table.json: RSV and OPC are compared whole, RSV with 0, and LEN is either free, for
CE_UPDATE, or compared with 0. -/
theorem opcodeTable_fields : ∀ r ∈ opcodeTable,
    rsvOf r.mask = BitVec.allOnes 21 ∧ opcOf r.mask = BitVec.allOnes 8 ∧ rsvOf r.value = 0 ∧ lenOf r.value = 0 ∧
      lenOf r.mask = (if opcOf r.value = 0x02 then 0 else BitVec.allOnes 3) := by
  decide

theorem accepts_iff {r : OpcodeRow} (hr : r ∈ opcodeTable) (cmd : Word) : r.accepts cmd = true ↔
    opcOf cmd = opcOf r.value ∧ rsvOf cmd = 0 ∧ (opcOf cmd ≠ 0x02 → lenOf cmd = 0) := by
  obtain ⟨hrsvMask, hopcMask, hrsv, hlen, hlenMask⟩ := opcodeTable_fields r hr
  rw [accepts_iff_fields, hrsvMask, hopcMask, hrsv, hlen, hlenMask, BitVec.and_allOnes, BitVec.and_allOnes]
  by_cases h : opcOf r.value = 0x02
  · simp +contextual [h, and_comm]
  · have : opcOf cmd = opcOf r.value → opcOf cmd ≠ 0x02 := fun heq => heq ▸ h
    simp only [h, if_false, BitVec.and_allOnes]
    tauto

/-- The table's rows are told apart by their opcodes. -/
theorem row_eq_of_opcode_eq :
    ∀ r ∈ opcodeTable, ∀ r' ∈ opcodeTable, opcOf r.value = opcOf r'.value → r = r' := by
  decide

theorem mnemonic_eq_ceUpdate_iff : ∀ r ∈ opcodeTable, r.mnemonic = "CE_UPDATE" ↔ opcOf r.value = 0x02 := by
  decide

theorem opcodeTable_opcodes : opcodeTable.map (fun r => (opcOf r.value).toNat) =
    [0x00, 0x01, 0x02, 0x03, 0x04, 0x05, 0x06, 0x10, 0x11] := by
  decide

theorem mem_opcodes_iff_exists_row (cmd : Word) :
    cmd.toNat % 256 ∈ [0x00, 0x01, 0x02, 0x03, 0x04, 0x05, 0x06, 0x10, 0x11] ↔
      ∃ r ∈ opcodeTable, opcOf cmd = opcOf r.value := by
  rw [← opcodeTable_opcodes, List.mem_map]
  simp only [← opcOf_toNat, BitVec.toNat_inj, eq_comm]

/-- The row of an instruction, by its opcode, has its mnemonic. -/
theorem mnemonic_of_opcode_eq {r : OpcodeRow} (hr : r ∈ opcodeTable) (i : Instr) (h : opcOf r.value = i.opcode) :
    r.mnemonic = i.mnemonic := by
  have hrow : ∃ r' ∈ opcodeTable, opcOf r'.value = i.opcode ∧ r'.mnemonic = i.mnemonic := by
    cases i <;> simp only [Instr.opcode, Instr.mnemonic] <;> decide
  obtain ⟨r', hr', hopc, hname⟩ := hrow
  rw [row_eq_of_opcode_eq r hr r' hr' (h.trans hopc.symm), hname]

/-- Settles O4: a row's words are those with the row's opcode, RSV 0, and LEN 0 unless the row is CE_UPDATE's. -/
theorem decoderAcceptsExactlyTheOpcodeTable : Obligations.DecoderAcceptsExactlyTheOpcodeTable := by
  refine ⟨fun c => ?_, fun c i hdecode r hr haccepts => ?_, fun cmd r hr r' hr' haccepts haccepts' => ?_⟩
  · rw [← not_illegal_iff_decode_ok, illegal_iff, not_not, mem_opcodes_iff_exists_row, ← lenOf_toNat]
    constructor
    · rintro ⟨⟨r, hr, hopc⟩, hrsv, hzero, hle⟩
      exact ⟨r, hr, (accepts_iff hr c.cmd).2 ⟨hopc, hrsv, hzero⟩,
        fun hname => hle (hopc.trans ((mnemonic_eq_ceUpdate_iff r hr).1 hname))⟩
    · rintro ⟨r, hr, haccepts, hle⟩
      obtain ⟨hopc, hrsv, hzero⟩ := (accepts_iff hr c.cmd).1 haccepts
      exact ⟨⟨r, hr, hopc⟩, hrsv, hzero, fun h2 => hle ((mnemonic_eq_ceUpdate_iff r hr).2 (hopc.symm.trans h2))⟩
  · obtain ⟨hselect, -⟩ := (decode_eq_ok_iff c i).1 hdecode
    obtain ⟨hopc, -⟩ := (select_eq_some_iff c i).1 hselect
    exact mnemonic_of_opcode_eq hr i (((accepts_iff hr c.cmd).1 haccepts).1.symm.trans hopc)
  · exact row_eq_of_opcode_eq r hr r' hr'
      (((accepts_iff hr cmd).1 haccepts).1.symm.trans ((accepts_iff hr' cmd).1 haccepts').1)

end Sys2Proof.Machine
end

section
/-! O7 and O8: the step on an accepted command, and the step on which none is accepted (30_encoding.md R60, R64). -/

namespace Sys2Proof.Machine

theorem decodeTableWord_eq_some {nbits w : Nat} {i : Instr} (h : decodeTableWord nbits w = some i) :
    decode (Command.ofBits nbits w) = .ok i := by
  unfold decodeTableWord at h
  split at h
  · cases h
  · cases hd : decode (Command.ofBits nbits w) <;> simp_all

/-- Settles O7: a step on an offered command is `runCommand`, which follows the decoder's answer. -/
theorem stepRunsTheDecodedInstruction : Obligations.StepRunsTheDecodedInstruction :=
  ⟨fun _ _ _ _ offers h => (step_of_offers offers).trans (runCommand_of_ok h _),
    fun _ _ _ _ offers h => (step_of_offers offers).trans (runCommand_of_error h _),
    fun s nbits w _ h => (step_withFetchWord s nbits w).trans (runCommand_of_ok (decodeTableWord_eq_some h) _)⟩

theorem step_eq_wait {s : State} (h : s.inputs = [] ∨ (s.cmdReady = false ∧ ∃ c rest, s.inputs = .command c :: rest)) :
    step s = .next s.wait := by
  obtain hnil | ⟨hready, c, rest, hcons⟩ := h
  · simp [step, hnil]
  · simp [step, hcons, offerCommand, hready]

/-- Settles O8: both cases are a wait, which writes the two port outputs alone. -/
theorem waitingKeepsEveryRegister : Obligations.WaitingKeepsEveryRegister :=
  fun s h => ⟨s.wait, step_eq_wait h, ⟨rfl, rfl, rfl⟩, rfl, rfl, rfl, rfl, rfl, rfl⟩

end Sys2Proof.Machine
end

section
/-! O39: the descriptor layout and the header's wire layout (20_memory.md R41, 30_encoding.md R68, R69). Every layout is a
concatenation, so its value is a sum of its fields at their places; and the descriptor layout's value determines them. -/

namespace Sys2Proof.Machine

theorem Descriptor.toWord_toNat (d : Descriptor) : d.toWord.toNat = d.levelHint.toNat * 2 ^ 14 +
    d.hasDictionary.toNat * 2 ^ 13 + d.checkBits.toNat * 2 ^ 8 + d.windowInfo.toNat * 2 ^ 4 + d.method.toNat := by
  simp only [Descriptor.toWord, toNat_append_eq_add, BitVec.ofNat_eq_ofNat, BitVec.toNat_ofNat]
  omega

theorem Descriptor.byte0_toNat (d : Descriptor) : d.byte0.toNat = d.windowInfo.toNat * 16 + d.method.toNat :=
  toNat_append_eq_add _ _

theorem Descriptor.byte1_toNat (d : Descriptor) :
    d.byte1.toNat = d.levelHint.toNat * 64 + d.hasDictionary.toNat * 32 + d.checkBits.toNat := by
  simp only [Descriptor.byte1, toNat_append_eq_add]
  omega

theorem headerOfBytes_toNat (b0 b1 : Byte) : (headerOfBytes b0 b1).toNat = b0.toNat * 256 + b1.toNat :=
  toNat_append_eq_add b0 b1

/-- No two fields of the descriptor layout overlap. -/
theorem Descriptor.eq_of_toWord_toNat_eq {d e : Descriptor} (h : d.toWord.toNat = e.toWord.toNat) : d = e := by
  rw [Descriptor.toWord_toNat, Descriptor.toWord_toNat] at h
  obtain ⟨method, windowInfo, checkBits, hasDictionary, levelHint⟩ := d
  obtain ⟨method', windowInfo', checkBits', hasDictionary', levelHint'⟩ := e
  simp only [Descriptor.mk.injEq, ← BitVec.toNat_inj]
  dsimp only at h
  omega

/-- ARG0[31:16] is not read (30_encoding.md R68). -/
theorem Descriptor.toWord_ofWord_toNat (w : Word) : (Descriptor.ofWord w).toWord.toNat = w.toNat % 2 ^ 16 := by
  simp only [Descriptor.toWord_toNat, Descriptor.ofWord, BitVec.extractLsb'_toNat, Nat.shiftRight_eq_div_pow]
  omega

/-- The descriptor of two wire bytes is the header word with its bytes swapped (30_encoding.md R69). -/
theorem Descriptor.toWord_ofBytes_toNat (b0 b1 : Byte) :
    (Descriptor.ofBytes b0 b1).toWord.toNat = b1.toNat * 256 + b0.toNat := by
  simp only [Descriptor.toWord_toNat, Descriptor.ofBytes, BitVec.extractLsb'_toNat, Nat.shiftRight_eq_div_pow]
  omega

theorem Descriptor.ofWord_toWord (d : Descriptor) : Descriptor.ofWord d.toWord = d := by
  apply Descriptor.eq_of_toWord_toNat_eq
  rw [Descriptor.toWord_ofWord_toNat]
  exact Nat.mod_eq_of_lt d.toWord_lt

theorem Descriptor.ofBytes_byte0_byte1 (d : Descriptor) : Descriptor.ofBytes d.byte0 d.byte1 = d := by
  apply Descriptor.eq_of_toWord_toNat_eq
  rw [Descriptor.toWord_ofBytes_toNat, d.byte0_toNat, d.byte1_toNat, d.toWord_toNat]
  omega

theorem Descriptor.ofWord_congr {a b : Word} (h : a.toNat % 2 ^ 16 = b.toNat % 2 ^ 16) :
    Descriptor.ofWord a = Descriptor.ofWord b := by
  apply Descriptor.eq_of_toWord_toNat_eq
  rw [Descriptor.toWord_ofWord_toNat, Descriptor.toWord_ofWord_toNat, h]

/-- Settles O39: the layouts are sums of the fields, and the descriptor layout's value determines them. -/
theorem descriptorLayoutKeepsEveryField : Obligations.DescriptorLayoutKeepsEveryField :=
  ⟨fun d => ⟨d.ofWord_toWord, d.ofBytes_byte0_byte1⟩, Descriptor.toWord_toNat,
    fun d => ⟨d.byte0_toNat, d.byte1_toNat⟩, fun _ _ => Descriptor.ofWord_congr,
    fun b0 b1 => ⟨Descriptor.toWord_ofBytes_toNat b0 b1, headerOfBytes_toNat b0 b1⟩⟩

end Sys2Proof.Machine
end

section
/-! O6: the operand bits that a command does not read (30_encoding.md R62). The decoder copies the operand words; each meaning
then reads only the bits that its rule names. -/

namespace Sys2Proof.Machine

/-- The instruction with its operand words replaced. -/
def withOperands (b0 b1 : Word) : Instr → Instr
  | .nop => .nop
  | .ceInit => .ceInit
  | .ceUpdate len _ => .ceUpdate len b0
  | .ceFinal => .ceFinal
  | .ceLoad _ => .ceLoad b0
  | .ceVerify _ => .ceVerify b0
  | .ceCombine _ _ => .ceCombine b0 b1
  | .hcParse _ => .hcParse b0
  | .hcSerialize _ => .hcSerialize b0

/-- What CMD selects does not depend on the operand words. -/
theorem select_withOperands {cmd a0 a1 : Word} {i : Instr} (h : select ⟨cmd, a0, a1⟩ = some i) (b0 b1 : Word) :
    select ⟨cmd, b0, b1⟩ = some (withOperands b0 b1 i) := by
  obtain ⟨hopc, hold⟩ := (select_eq_some_iff _ _).1 h
  refine (select_eq_some_iff _ _).2 ?_
  cases i with
  | nop | ceInit | ceFinal => exact ⟨hopc, trivial⟩
  | ceUpdate len a => exact ⟨hopc, hold.1, rfl⟩
  | ceLoad a | ceVerify a | hcParse a | hcSerialize a => exact ⟨hopc, rfl⟩
  | ceCombine a b => exact ⟨hopc, rfl, rfl⟩

theorem decode_withOperands {cmd a0 a1 : Word} {i : Instr} (h : decode ⟨cmd, a0, a1⟩ = .ok i) (b0 b1 : Word) :
    decode ⟨cmd, b0, b1⟩ = .ok (withOperands b0 b1 i) := by
  obtain ⟨hselect, legal⟩ := (decode_eq_ok_iff _ _).1 h
  exact (decode_eq_ok_iff _ _).2 ⟨select_withOperands hselect b0 b1, legal⟩

/-- CE_UPDATE reads lanes 0 to LEN − 1 (30_encoding.md R62). -/
theorem lanes_congr {len : Nat} {a b : Word} (h : a.toNat % 256 ^ len = b.toNat % 256 ^ len) :
    lanes len a = lanes len b := by
  refine List.map_congr_left fun i hi => ?_
  have hlt : i < len := List.mem_range.1 hi
  have hmod : ∀ w : Word, w.toNat / 2 ^ (8 * i) % 256 = w.toNat % 256 ^ len / 256 ^ i % 256 := by
    intro w
    obtain ⟨k, rfl⟩ := Nat.exists_eq_add_of_lt hlt
    rw [pow_mul, show 2 ^ 8 = 256 from rfl, add_assoc, pow_add, Nat.mod_mul_right_div_self, pow_succ',
      Nat.mod_mul_right_mod]
  apply BitVec.eq_of_toNat_eq
  rw [lane_toNat, lane_toNat, hmod, hmod, h]

/-- HC_PARSE reads ARG0[15:0] (30_encoding.md R62). -/
theorem headerArg_congr {a b : Word} (h : a.toNat % 2 ^ 16 = b.toNat % 2 ^ 16) : headerArg a = headerArg b := by
  apply BitVec.eq_of_toNat_eq
  rw [headerArg_toNat, headerArg_toNat]
  exact h

/-- HC_SERIALIZE reads every field but check_bits (30_encoding.md R62, 41_header_codec.md R114). -/
theorem serializeHeader_congr {d e : Descriptor}
    (h : ({ d with checkBits := 0 } : Descriptor) = { e with checkBits := 0 }) : serializeHeader d = serializeHeader e :=
  calc serializeHeader d
    _ = serializeHeader { d with checkBits := 0 } := rfl
    _ = serializeHeader { e with checkBits := 0 } := by rw [h]
    _ = serializeHeader e := rfl

theorem toWord_ofWord_checkBits_zero (w : Word) :
    ({ Descriptor.ofWord w with checkBits := 0 } : Descriptor).toWord.toNat = w.toNat / 2 ^ 13 % 8 * 2 ^ 13 + w.toNat % 2 ^ 8 := by
  simp only [Descriptor.toWord_toNat, Descriptor.ofWord, BitVec.extractLsb'_toNat, Nat.shiftRight_eq_div_pow,
    BitVec.ofNat_eq_ofNat, BitVec.toNat_ofNat]
  omega

theorem ofWord_congr_of_checkBits_zero {a b : Word} (low : a.toNat % 2 ^ 8 = b.toNat % 2 ^ 8)
    (high : a.toNat / 2 ^ 13 % 8 = b.toNat / 2 ^ 13 % 8) :
    ({ Descriptor.ofWord a with checkBits := 0 } : Descriptor) = { Descriptor.ofWord b with checkBits := 0 } := by
  apply Descriptor.eq_of_toWord_toNat_eq
  rw [toWord_ofWord_checkBits_zero, toWord_ofWord_checkBits_zero, low, high]

/-- The meaning of a decoded instruction does not change with the operand bits that it does not read. -/
theorem exec_withOperands {cmd a0 a1 b0 b1 : Word} {i : Instr} (hopc : cmd.toNat % 256 = i.opcode.toNat)
    (hold : HoldsOperands ⟨cmd, a0, a1⟩ i) (same : SameReadBits cmd a0 a1 b0 b1) (s : State) :
    exec i s = exec (withOperands b0 b1 i) s := by
  unfold SameReadBits at same
  rw [hopc] at same
  cases i with
  | nop | ceInit | ceFinal => rfl
  | ceUpdate len a =>
    obtain ⟨rfl, rfl⟩ := hold
    have hlanes : lanes (lenOf cmd).toNat a = lanes (lenOf cmd).toNat b0 :=
      lanes_congr (by rw [lenOf_toNat]; exact same)
    simp only [exec, withOperands, execCeUpdate, hlanes]
  | ceLoad a | ceVerify a =>
    cases hold
    cases same
    rfl
  | ceCombine a b =>
    obtain ⟨rfl, rfl⟩ := hold
    obtain ⟨rfl, rfl⟩ := same
    rfl
  | hcParse a =>
    cases hold
    simp only [exec, withOperands, execHcParse, headerArg_congr same]
  | hcSerialize a =>
    cases hold
    obtain ⟨low, high⟩ := same
    simp only [exec, withOperands, execHcSerialize, serializeHeader_congr (ofWord_congr_of_checkBits_zero low high)]

theorem runCommand_congr {cmd a0 a1 b0 b1 : Word} (same : SameReadBits cmd a0 a1 b0 b1) (s : State) :
    runCommand ⟨cmd, a0, a1⟩ s = runCommand ⟨cmd, b0, b1⟩ s := by
  cases h : decode ⟨cmd, a0, a1⟩ with
  | ok i =>
    obtain ⟨hselect, -⟩ := (decode_eq_ok_iff _ _).1 h
    obtain ⟨hopc, hold⟩ := (select_eq_some_iff _ _).1 hselect
    rw [runCommand_of_ok h, runCommand_of_ok (decode_withOperands h b0 b1)]
    exact exec_withOperands (by rw [← opcOf_toNat, hopc]) hold same s
  | error e =>
    have illegal : Illegal cmd := (illegal_iff_decode_error ⟨cmd, a0, a1⟩).2 ⟨e, h⟩
    obtain ⟨e', h'⟩ := (illegal_iff_decode_error ⟨cmd, b0, b1⟩).1 illegal
    rw [runCommand_of_error h, runCommand_of_error h']

/-- Settles O6: a command that decodes reads the bits its rule names, and RSV and LEN decide whether it decodes. -/
theorem unreadOperandBitsAreIgnored : Obligations.UnreadOperandBitsAreIgnored := by
  refine ⟨fun cmd a0 a1 b0 b1 s same => runCommand_congr same s, fun c h => (illegal_iff_decode_error c).1 ?_⟩
  exact .inr (h.imp_right .inl)

end Sys2Proof.Machine
end

section
/-! O50: the assembler (30_encoding.md R71). -/

namespace Sys2Proof.Machine

theorem word32_of_lt {n : Nat} (h : n < 2 ^ 32) : word32 n = some (BitVec.ofNat 32 n) := if_pos h

theorem word32_of_le {n : Nat} (h : 2 ^ 32 ≤ n) : word32 n = none := if_neg (not_lt.2 h)

theorem encode_ceUpdate {len : Nat} (h : len ≤ 4) (a : Word) :
    encode (.ceUpdate (BitVec.ofNat 3 len) a) = ⟨BitVec.ofNat 32 (len * 256 + 2), a, 0⟩ := by
  have hcmd : packCmd (BitVec.ofNat 3 len) 0x02 = BitVec.ofNat 32 (len * 256 + 2) := by
    apply BitVec.eq_of_toNat_eq
    rw [packCmd_toNat, BitVec.toNat_ofNat, BitVec.toNat_ofNat, show (0x02 : BitVec 8).toNat = 2 from rfl]
    omega
  exact congrArg (Command.mk · a 0) hcmd

theorem encode_ceLoad (a : Word) : encode (.ceLoad a) = ⟨0x00000004, a, 0⟩ :=
  congrArg (Command.mk · a 0) (by decide : packCmd 0 0x04 = 0x00000004)

theorem encode_ceVerify (a : Word) : encode (.ceVerify a) = ⟨0x00000005, a, 0⟩ :=
  congrArg (Command.mk · a 0) (by decide : packCmd 0 0x05 = 0x00000005)

theorem encode_ceCombine (a b : Word) : encode (.ceCombine a b) = ⟨0x00000006, a, b⟩ :=
  congrArg (Command.mk · a b) (by decide : packCmd 0 0x06 = 0x00000006)

theorem encode_hcParse (a : Word) : encode (.hcParse a) = ⟨0x00000010, a, 0⟩ :=
  congrArg (Command.mk · a 0) (by decide : packCmd 0 0x10 = 0x00000010)

theorem encode_hcSerialize (a : Word) : encode (.hcSerialize a) = ⟨0x00000011, a, 0⟩ :=
  congrArg (Command.mk · a 0) (by decide : packCmd 0 0x11 = 0x00000011)

theorem assemble_ceUpdate (len a0 : Nat) : Asm.assemble (.ceUpdate len a0) =
    if len ≤ 4 ∧ a0 < 2 ^ 32 then some [⟨BitVec.ofNat 32 (len * 256 + 2), BitVec.ofNat 32 a0, 0⟩] else none := by
  by_cases hlen : len ≤ 4
  · obtain h | h := lt_or_ge a0 (2 ^ 32)
    · rw [if_pos ⟨hlen, h⟩]
      simp [Asm.assemble, Asm.instrs, hlen, word32_of_lt h, encode_ceUpdate hlen]
    · rw [if_neg (by omega)]
      simp [Asm.assemble, Asm.instrs, word32_of_le h]
  · rw [if_neg (by omega)]
    simp [Asm.assemble, Asm.instrs, hlen]

theorem assemble_ceCombine (a0 a1 : Nat) : Asm.assemble (.ceCombine a0 a1) =
    if a0 < 2 ^ 32 ∧ a1 < 2 ^ 32 then some [⟨0x00000006, BitVec.ofNat 32 a0, BitVec.ofNat 32 a1⟩] else none := by
  obtain h0 | h0 := lt_or_ge a0 (2 ^ 32)
  · obtain h1 | h1 := lt_or_ge a1 (2 ^ 32)
    · rw [if_pos ⟨h0, h1⟩]
      simp [Asm.assemble, Asm.instrs, word32_of_lt h0, word32_of_lt h1, encode_ceCombine]
    · rw [if_neg (by omega)]
      simp [Asm.assemble, Asm.instrs, word32_of_le h1]
  · rw [if_neg (by omega)]
    simp [Asm.assemble, Asm.instrs, word32_of_le h0]

/-- Settles O50: an operand is refused exactly when it does not fit, and a line without one assembles by evaluation. -/
theorem assemblerFollowsTheSyntaxTable : Obligations.AssemblerFollowsTheSyntaxTable := by
  refine ⟨assemble_ceUpdate, assemble_ceCombine, fun a0 h => ?_, fun a0 h => ?_, by decide, by decide, by decide⟩
  · simp [Asm.assemble, Asm.instrs, word32_of_lt h, encode_ceLoad, encode_ceVerify, encode_hcParse, encode_hcSerialize]
  · simp [Asm.assemble, Asm.instrs, word32_of_le h]

end Sys2Proof.Machine
end

section
/-! O51: `ce.fold` (30_encoding.md R72). The expansion takes the bytes four at a time; each CE_UPDATE carries its bytes in
lanes from 0 up, so that the meaning of the whole is one fold. -/

namespace Sys2Proof.Machine

/-- The lanes that CE_UPDATE folds are the bytes of ARG0, the least significant first (30_encoding.md R70). -/
theorem lanes_eq_bytesOf (len : Nat) (arg0 : Word) : lanes len arg0 = bytesOf len arg0 := by
  refine List.map_congr_left fun i _ => BitVec.eq_of_toNat_eq ?_
  rw [lane_toNat, BitVec.toNat_ofNat, pow_mul]
  rfl

theorem lane_packLanes_zero (b : Byte) (bytes : List Byte) : lane (packLanes (b :: bytes)) 0 = b := by
  ext j hj
  have hword : j < 32 := by omega
  simp [lane, packLanes, hj, hword, BitVec.getLsbD_eq_getElem]

/-- Lane 3 is the last, so the shift of `packLanes` loses no byte of at most four. -/
theorem lane_packLanes_succ {i : Nat} (hi : i < 3) (b : Byte) (bytes : List Byte) :
    lane (packLanes (b :: bytes)) (i + 1) = lane (packLanes bytes) i := by
  ext j hj
  have hword : 8 * (i + 1) + j < 32 := by omega
  have hupper : ¬ 8 * (i + 1) + j < 8 := by omega
  have hshift : 8 * (i + 1) + j - 8 = 8 * i + j := by omega
  have hb : b.getLsbD (8 * (i + 1) + j) = false := BitVec.getLsbD_of_ge _ _ (by omega)
  simp only [lane, packLanes, BitVec.truncate_eq_setWidth, BitVec.getElem_extractLsb', BitVec.getLsbD_or,
    BitVec.getLsbD_shiftLeft, BitVec.getLsbD_setWidth, hword, hupper, hshift, hb]
  simp

theorem lanes_packLanes {bytes : List Byte} (h : bytes.length ≤ 4) : lanes bytes.length (packLanes bytes) = bytes := by
  induction bytes with
  | nil => rfl
  | cons b bytes ih =>
    rw [List.length_cons] at h
    have htail : (List.range bytes.length).map (fun i => lane (packLanes (b :: bytes)) (i + 1)) = bytes := by
      calc (List.range bytes.length).map (fun i => lane (packLanes (b :: bytes)) (i + 1))
        _ = lanes bytes.length (packLanes bytes) := List.map_congr_left fun i hi => by
            have := List.mem_range.1 hi
            exact lane_packLanes_succ (by omega) b bytes
        _ = bytes := ih (by omega)
    rw [lanes, List.length_cons, List.range_succ_eq_map, List.map_cons, List.map_map, lane_packLanes_zero]
    exact congrArg (b :: ·) htail

/-- Writing the fold into the 16-bit registers loses nothing, from any state: one byte already reduces it, and with none the
registers keep their values. -/
theorem State.foldBytes_acc_eq_foldSeq (s : State) (bytes : List Byte) :
    (s.foldBytes bytes).acc = foldSeq s.acc bytes := by
  cases bytes with
  | nil => simp [State.acc]
  | cons b bytes => exact (foldSeq_reduced (fold_reduced s.acc b) bytes).narrow

/-- LEN has room for the number of bytes in one CE_UPDATE. -/
theorem ofNat_length_toNat {bytes : List Byte} (h : bytes.length ≤ 4) :
    (BitVec.ofNat 3 bytes.length).toNat = bytes.length := by
  rw [BitVec.toNat_ofNat]
  omega

theorem exec_updateOf_acc {bytes : List Byte} (h : bytes.length ≤ 4) (s : State) :
    ∃ t, exec (updateOf bytes) s = .next t ∧ t.acc = foldSeq s.acc bytes := by
  refine ⟨_, rfl, ?_⟩
  rw [State.respond_acc, ofNat_length_toNat h, lanes_packLanes h, State.foldBytes_acc_eq_foldSeq]

/-- A byte string is folded four bytes at a time (30_encoding.md R72). -/
theorem foldInstrs_of_ne_nil {bytes : List Byte} (h : bytes ≠ []) :
    foldInstrs bytes = updateOf (bytes.take 4) :: foldInstrs (bytes.drop 4) := by
  match bytes with
  | [_] | [_, _] | [_, _, _] => rfl
  | _ :: _ :: _ :: _ :: _ => rfl

/-- Induction on a byte string by taking four bytes at a time. -/
theorem chunk_induction {motive : List Byte → Prop} (nil : motive [])
    (chunk : ∀ bytes, bytes ≠ [] → motive (bytes.drop 4) → motive bytes) (bytes : List Byte) : motive bytes :=
  if h : bytes = [] then h ▸ nil else chunk bytes h (chunk_induction nil chunk (bytes.drop 4))
termination_by bytes.length
decreasing_by
  have := List.length_pos_iff.2 h
  rw [List.length_drop]
  omega

theorem foldInstrs_length (bytes : List Byte) : (foldInstrs bytes).length = (bytes.length + 3) / 4 := by
  induction bytes using chunk_induction with
  | nil => rfl
  | chunk bytes hne ih =>
    have := List.length_pos_iff.2 hne
    rw [foldInstrs_of_ne_nil hne, List.length_cons, ih, List.length_drop]
    omega

/-- Command j of the expansion carries the four bytes from 4j on, or what is left of them. -/
theorem foldInstrs_getElem? (bytes : List Byte) (j : Nat) {i : Instr} (h : (foldInstrs bytes)[j]? = some i) :
    i = updateOf ((bytes.drop (4 * j)).take 4) := by
  induction bytes using chunk_induction generalizing j with
  | nil => cases h
  | chunk bytes hne ih =>
    rw [foldInstrs_of_ne_nil hne] at h
    cases j with
    | zero => simpa using h.symm
    | succ j =>
      rw [List.getElem?_cons_succ] at h
      rw [ih j h, List.drop_drop, mul_add, mul_one, add_comm]

theorem updateOf_carries {bytes : List Byte} (h : bytes.length ≤ 4) : (updateOf bytes).wf = true ∧
    ∃ len a0, updateOf bytes = .ceUpdate len a0 ∧ bytesOf len.toNat a0 = bytes := by
  have hlen := ofNat_length_toNat h
  refine ⟨decide_eq_true (hlen.trans_le h), _, _, rfl, ?_⟩
  rw [hlen, ← lanes_eq_bytesOf, lanes_packLanes h]

theorem execAll_cons {i : Instr} {s t : State} (h : exec i s = .next t) (is : List Instr) :
    execAll (i :: is) s = execAll is t := by
  simp only [execAll, h]

theorem foldSeq_append (a : Accumulators) (xs ys : List Byte) : foldSeq a (xs ++ ys) = foldSeq (foldSeq a xs) ys :=
  List.foldl_append

theorem execAll_foldInstrs_acc (bytes : List Byte) (s : State) :
    ∃ t, execAll (foldInstrs bytes) s = .next t ∧ t.acc = foldSeq s.acc bytes := by
  induction bytes using chunk_induction generalizing s with
  | nil => exact ⟨s, rfl, rfl⟩
  | chunk bytes hne ih =>
    obtain ⟨t, hexec, ht⟩ := exec_updateOf_acc (List.length_take_le 4 bytes) s
    obtain ⟨u, hall, hu⟩ := ih t
    refine ⟨u, ?_, ?_⟩
    · rw [foldInstrs_of_ne_nil hne, execAll_cons hexec, hall]
    · rw [hu, ht, ← foldSeq_append, List.take_append_drop]

/-- Settles O51, by induction on the bytes four at a time. -/
theorem foldExpansionFoldsTheBytes : Obligations.FoldExpansionFoldsTheBytes := by
  refine ⟨fun bytes => ⟨foldInstrs_length bytes, fun j i h => ?_, execAll_foldInstrs_acc bytes⟩, fun _ => rfl, rfl,
    fun _ => rfl⟩
  rw [foldInstrs_getElem? bytes j h]
  exact updateOf_carries (List.length_take_le 4 _)

end Sys2Proof.Machine
end

section
/-! O32 and O49: within the run bound the datapath's outputs are the fold's (40_checksum_engine.md R100, R103, R105). -/

namespace Sys2Proof.Machine

/-- Settles O32: within the bound the additions for one byte are exact, and every byte keeps the datapath within it. -/
theorem delayedReductionEqualsPerByteFold : Obligations.DelayedReductionEqualsPerByteFold := by
  intro w d hlegal hbound
  have hw : 16 ≤ w := by omega
  refine ⟨fun b => ?_, fun bytes => ⟨hbound.foldBytes_reduced hw bytes, hbound.foldBytes hw bytes⟩⟩
  rw [hbound.addByte_eq hw b]
  exact ⟨rfl, rfl, hbound.run_lt⟩

theorem State.ck_eq_acc_ck (s : State) : s.ck = s.acc.ck := by
  simp [State.ck, Accumulators.ck]

/-- The invariant holds along a run, which therefore never stops. -/
theorem State.Inv.run {s : State} (h : s.Inv) (n : Nat) : (stateAfter n s).Inv ∧ SafeRun n s := by
  induction n generalizing s with
  | zero => exact ⟨h, trivial⟩
  | succ n ih =>
    obtain ⟨t, hstep, ht⟩ := step_keeps_inv h
    obtain ⟨hinv, hsafe⟩ := ih ht
    exact ⟨(stateAfter_succ hstep n).symm ▸ hinv, t, hstep, hsafe⟩

/-- Settles O49: the invariant holds after any number of steps, and with it the accumulators are the datapath's outputs. -/
theorem outputsAreTheReducedDatapath : Obligations.OutputsAreTheReducedDatapath := by
  intro n s h
  obtain ⟨hinv, hsafe⟩ := h.run n
  obtain ⟨-, -, -, hacc⟩ := (State.inv_iff _).1 hinv
  exact ⟨by rw [State.ck_eq_acc_ck, hacc], hsafe⟩

end Sys2Proof.Machine
end

section
/-! O31 and O33: the largest safe run and what one byte more does (40_checksum_engine.md R102, R104). The worst run folds bytes
0xFF from A1 = A2 = 65520; `Datapath.peak n` is the datapath after n of them, while nothing wraps. -/

namespace Sys2Proof.Machine

/-- NMAX from its two defining inequalities. -/
theorem nmax_eq {width n : Nat} (hw : 16 ≤ width) (fits : runPeak n ≤ 2 ^ width - 1)
    (exceeds : 2 ^ width - 1 < runPeak (n + 1)) : nmax width = n := by
  have hlow : n ≤ nmax width := (le_nmax_iff hw n).2 fits
  have hhigh : ¬ n + 1 ≤ nmax width := fun h => not_lt.2 ((le_nmax_iff hw (n + 1)).1 h) exceeds
  omega

/-- Below 18 bits not even one byte is safe (40_checksum_engine.md R102). -/
theorem nmax_eq_zero : ∀ width < 18, nmax width = 0 := by decide

/-- The bound of a run on A1 and A2 holds whether or not an addition wraps, since wrapping only makes them smaller. -/
theorem Datapath.overrun_le (width : Nat) {k : Nat} {d : Datapath} (a1_le : d.a1 ≤ 65520 + 255 * k)
    (a2_le : d.a2 ≤ runPeak k) (bytes : List Byte) :
    (d.overrun width bytes).a1 ≤ 65520 + 255 * (k + bytes.length) ∧
    (d.overrun width bytes).a2 ≤ runPeak (k + bytes.length) := by
  induction bytes generalizing k d with
  | nil => exact ⟨a1_le, a2_le⟩
  | cons b bytes ih =>
    have ha1 : (d.addByte width b).a1 ≤ d.a1 + b.toNat := Nat.mod_le _ _
    have ha2 : (d.addByte width b).a2 ≤ d.a2 + (d.addByte width b).a1 := Nat.mod_le _ _
    have hb := b.isLt
    rw [Datapath.overrun_cons, List.length_cons, add_comm bytes.length 1, ← add_assoc]
    exact ih (by omega) (by rw [runPeak_succ]; omega)

/-- The datapath after n bytes 0xFF from A1 = A2 = 65520, if nothing wraps. -/
def Datapath.peak (n : Nat) : Datapath := { a1 := 65520 + 255 * n, a2 := runPeak n, run := n }

theorem Datapath.peak_succ (n : Nat) : Datapath.peak (n + 1) =
    ⟨(Datapath.peak n).a1 + (0xFF : Byte).toNat, (Datapath.peak n).a2 + ((Datapath.peak n).a1 + (0xFF : Byte).toNat),
      n + 1⟩ := by
  simp [Datapath.peak, runPeak_succ, mul_add, add_assoc]

theorem Datapath.peak_inBounds {width n : Nat} (h : n < nmax width) : (Datapath.peak n).InBounds width :=
  ⟨h, le_rfl, le_rfl⟩

theorem Datapath.overrun_replicate_succ (width : Nat) (d : Datapath) (n : Nat) (b : Byte) :
    d.overrun width (List.replicate (n + 1) b) = (d.overrun width (List.replicate n b)).addByte width b := by
  simp [Datapath.overrun, List.replicate_succ']

/-- Up to NMAX bytes 0xFF, nothing wraps. -/
theorem Datapath.overrun_peak {width : Nat} (hw : 16 ≤ width) {n : Nat} (h : n ≤ nmax width) :
    (Datapath.peak 0).overrun width (List.replicate n 0xFF) = Datapath.peak n := by
  induction n with
  | zero => rfl
  | succ n ih =>
    rw [Datapath.overrun_replicate_succ, ih (by omega), (Datapath.peak_inBounds h).addByte_eq hw, Datapath.peak_succ]
    rfl

/-- The fold of any number of bytes 0xFF, since the exact additions, reduced, are the fold. -/
theorem foldSeq_replicate_eq_peak (n : Nat) :
    foldSeq ⟨65520, 65520⟩ (List.replicate n 0xFF) = (Datapath.peak n).reduced := by
  induction n with
  | zero => decide
  | succ n ih =>
    rw [List.replicate_succ', foldSeq_append, ih, Datapath.peak_succ, Datapath.reduced_add]
    rfl

theorem nmax_32 : nmax 32 = 5552 := nmax_eq (by decide) (by decide) (by decide)

/-- Settles O31: the search for NMAX is exact, a run stays within its peak, and bytes 0xFF reach the peak. -/
theorem nmaxIsTheLargestSafeRun : Obligations.NmaxIsTheLargestSafeRun := by
  refine ⟨fun w n hw => (le_nmax_iff hw n).symm, nmax_eq_zero, fun w bytes d _ ha1 ha2 _ => ?_, fun w n hw hn => ?_,
    nmax_eq ?_ ?_ ?_, nmax_eq ?_ ?_ ?_, nmax_eq ?_ ?_ ?_, nmax_32, nmax_eq ?_ ?_ ?_, nmax_eq ?_ ?_ ?_,
    nmax_eq ?_ ?_ ?_⟩
  · simpa [runPeak] using Datapath.overrun_le w (k := 0) ha1 ha2 bytes
  · have hpeak := Datapath.overrun_peak hw hn
    exact ⟨congrArg Datapath.a2 hpeak, congrArg Datapath.a1 hpeak⟩
  all_goals decide

/-- One byte past NMAX(32), A2 has lost 2^32. -/
theorem Datapath.overrun_5553 : (Datapath.peak 0).overrun 32 (List.replicate 5553 0xFF) = ⟨1481535, 1204439, 5553⟩ := by
  rw [Datapath.overrun_replicate_succ, Datapath.overrun_peak (by decide) nmax_32.ge]
  decide

/-- Settles O33: the last addition wraps A2, and the reduced pair is no longer the fold. -/
theorem overrunningTheBoundWrapsSilently : Obligations.OverrunningTheBoundWrapsSilently := by
  have hstart : (⟨65520, 65520, 0⟩ : Datapath) = Datapath.peak 0 := by decide
  refine ⟨?_, ?_, ?_⟩
  · rw [hstart, Datapath.overrun_5553]
    decide
  · rw [foldSeq_replicate_eq_peak]
    decide
  · rw [hstart, Datapath.overrun_peak (by decide) nmax_32.ge, foldSeq_replicate_eq_peak]

end Sys2Proof.Machine
end

section
/-! O14 to O16 and O18 to O24: the commands of the checksum unit (40_checksum_engine.md R82 to R94). -/

namespace Sys2Proof.Machine

/-- A transfer with an instruction's command word decodes to it, whatever its unread operand words are. -/
theorem decode_of_cmd_eq {c : Command} {i : Instr} (wf : i.wf = true) (hcmd : c.cmd = (encode i).cmd)
    (hold : HoldsOperands c i) : decode c = .ok i := by
  have hopc : opcOf c.cmd = i.opcode := hcmd ▸ opcOf_packCmd _ _
  exact (decode_eq_ok_iff c i).2 ⟨(select_eq_some_iff c i).2 ⟨hopc, hold⟩, hcmd ▸ legalFields_encode wf⟩

theorem decode_ceInit (a0 a1 : Word) : decode ⟨0x00000001, a0, a1⟩ = .ok .ceInit := decode_of_cmd_eq rfl rfl trivial

theorem decode_ceFinal (a0 a1 : Word) : decode ⟨0x00000003, a0, a1⟩ = .ok .ceFinal := decode_of_cmd_eq rfl rfl trivial

theorem decode_ceLoad (a0 a1 : Word) : decode ⟨0x00000004, a0, a1⟩ = .ok (.ceLoad a0) :=
  decode_of_cmd_eq rfl (congrArg Command.cmd (encode_ceLoad a0)).symm rfl

theorem decode_ceVerify (a0 a1 : Word) : decode ⟨0x00000005, a0, a1⟩ = .ok (.ceVerify a0) :=
  decode_of_cmd_eq rfl (congrArg Command.cmd (encode_ceVerify a0)).symm rfl

theorem decode_ceUpdate {len : Nat} (h : len ≤ 4) (a0 a1 : Word) :
    decode ⟨BitVec.ofNat 32 (len * 256 + 2), a0, a1⟩ = .ok (.ceUpdate (BitVec.ofNat 3 len) a0) := by
  have hcmd : BitVec.ofNat 32 (len * 256 + 2) = packCmd (BitVec.ofNat 3 len) 0x02 :=
    (congrArg Command.cmd (encode_ceUpdate h a0)).symm
  refine decode_of_cmd_eq (decide_eq_true ?_) hcmd ⟨?_, rfl⟩
  · rw [BitVec.toNat_ofNat]
    omega
  · rw [hcmd, lenOf_packCmd]

/-- CMD of CE_UPDATE with LEN above 4 or a reserved bit set is illegal (30_encoding.md R65, R66). -/
theorem illegal_of_bad_ceUpdate {cmd : Word} (hopc : cmd.toNat % 256 = 2)
    (h : 5 ≤ cmd.toNat / 256 % 8 ∨ cmd.toNat / 2048 ≠ 0) : Illegal cmd := by
  obtain hlen | hrsv := h
  · exact .inr (.inr (.inr ⟨hopc, hlen⟩))
  · exact .inr (.inl hrsv)

/-- CMD with OPC 0 and any other bit set is illegal (30_encoding.md R66). -/
theorem illegal_of_opc_zero {cmd : Word} (hopc : cmd.toNat % 256 = 0) (hne : cmd ≠ 0) : Illegal cmd := by
  have hpos : cmd.toNat ≠ 0 := fun h => hne (BitVec.eq_of_toNat_eq h)
  obtain hrsv | hlen : cmd.toNat / 2048 ≠ 0 ∨ cmd.toNat / 256 % 8 ≠ 0 := by omega
  · exact .inr (.inl hrsv)
  · exact .inr (.inr (.inl ⟨by omega, hlen⟩))

theorem fresh_ck : fresh.ck = 0x00000001 := by decide

/-- A response leaves everything else alone. -/
theorem onlyReports_respond (s : State) (code : Status) (result : Word) :
    OnlyReports s (s.respond code result) result code.code :=
  ⟨sameChecksum_respond s code result, sameEnvironment_respond s code result, rfl, rfl, rfl⟩

theorem sameEnvironment_setAcc_respond (s : State) (a : Accumulators) (code : Status) (result : Word) :
    SameEnvironment s ((s.setAcc a).respond code result) := ⟨rfl, rfl, rfl⟩

theorem holdsReduced_setAcc_respond (s : State) {a : Accumulators} (ha : a.Reduced) (code : Status) (result : Word) :
    HoldsReduced ((s.setAcc a).respond code result) a.s1 a.s2 :=
  ⟨congrArg Accumulators.s1 ha.narrow, congrArg Accumulators.s2 ha.narrow, rfl⟩

/-- Settles O14: OPC 0 selects NOP, every other bit is checked, and NOP is a response with the old RESULT. -/
theorem nopWritesOnlyStatus : Obligations.NopWritesOnlyStatus :=
  ⟨decode_nop, fun c hopc hne => (illegal_iff_decode_error c).1 (illegal_of_opc_zero hopc hne),
    fun s => ⟨_, rfl, onlyReports_respond s .ok s.result⟩⟩

/-- Settles O15: CE_INIT writes the fresh pair (1, 0), whose checksum value is 1. -/
theorem initStartsAFreshSequence : Obligations.InitStartsAFreshSequence :=
  ⟨decode_ceInit, fun s => ⟨_, rfl, holdsReduced_setAcc_respond s fresh_reduced _ _,
    sameEnvironment_setAcc_respond s fresh _ _, rfl, fresh_ck, rfl⟩⟩

/-- Settles O16: CE_FINAL reads the pair that CE_INIT wrote, which is also the fold of no byte. -/
theorem finalAfterInitReturnsOne : Obligations.FinalAfterInitReturnsOne :=
  fun _ => ⟨_, rfl, ⟨rfl, fresh_ck, rfl⟩, fresh_ck⟩

/-- Folding no byte changes nothing, reduced or not. -/
theorem State.foldBytes_nil (s : State) : s.foldBytes [] = s := by
  simp [State.foldBytes, State.writeAcc]

theorem exec_ceUpdate (len : BitVec 3) (arg0 : Word) (s : State) : exec (.ceUpdate len arg0) s =
    .next ((s.foldBytes (bytesOf len.toNat arg0)).respond .ok (s.foldBytes (bytesOf len.toNat arg0)).ck) := by
  rw [← lanes_eq_bytesOf]
  rfl

/-- Settles O18: the lanes are the bytes of ARG0, and the fold leaves the rest to the response. -/
theorem updateFoldsTheLanesInOrder : Obligations.UpdateFoldsTheLanesInOrder := by
  refine ⟨fun len a0 a1 h => decode_ceUpdate h a0 a1,
    fun c hopc h => (illegal_iff_decode_error c).1 (illegal_of_bad_ceUpdate hopc h),
    fun s len arg0 _ => ⟨_, exec_ceUpdate len arg0 s, State.foldBytes_acc_eq_foldSeq s _, rfl, State.ck_toNat _, rfl, rfl,
      rfl, rfl, rfl⟩, fun s arg0 => ?_⟩
  have hexec : exec (.ceUpdate 0 arg0) s = .next (s.respond .ok s.ck) := by
    have hnil : bytesOf (0 : BitVec 3).toNat arg0 = [] := rfl
    rw [exec_ceUpdate, hnil, State.foldBytes_nil]
  exact ⟨_, hexec, sameChecksum_respond s _ _, rfl, rfl, rfl⟩

/-- Settles O19: CE_FINAL is a response with the checksum value. -/
theorem finalReadsTheChecksum : Obligations.FinalReadsTheChecksum :=
  ⟨decode_ceFinal, fun s => ⟨_, rfl, sameChecksum_respond s _ _, sameEnvironment_respond s _ _, s.ck_toNat, rfl, rfl, rfl⟩⟩

theorem ckLegal_of_lt {ck : Word} (hhi : ck.toNat / 65536 < 65521) (hlo : ck.toNat % 65536 < 65521) : ckLegal ck = true :=
  (ckLegal_iff ck).2 ⟨hhi, hlo⟩

theorem ckLegal_of_le {ck : Word} (h : 65521 ≤ ck.toNat / 65536 ∨ 65521 ≤ ck.toNat % 65536) : ckLegal ck = false := by
  rw [← Bool.not_eq_true, ckLegal_iff]
  omega

/-- Settles O20: the halves of a legal operand are written as a reduced pair; any other operand is only reported. -/
theorem loadRestoresOrRefusesTheOperand : Obligations.LoadRestoresOrRefusesTheOperand := by
  refine ⟨decode_ceLoad, fun s arg0 hhi hlo => ⟨_, execCeLoad_legal (ckLegal_of_lt hhi hlo) s, ?_,
    sameEnvironment_setAcc_respond s _ _ _, rfl, rfl, rfl⟩,
    fun s arg0 h => ⟨_, execCeLoad_illegal (ckLegal_of_le h) s, onlyReports_raise s .invalidState⟩⟩
  rw [ckLo_toNat, ckHi_toNat]
  exact holdsReduced_setAcc_respond s ⟨hlo, hhi⟩ _ _

theorem Accumulators.Reduced.ckLo_ck {a : Accumulators} (ha : a.Reduced) : (ckLo a.ck).toNat = a.s1 := by
  rw [Accumulators.ck, ckLo_ckOf]
  exact congrArg Accumulators.s1 ha.narrow

theorem Accumulators.Reduced.ckHi_ck {a : Accumulators} (ha : a.Reduced) : (ckHi a.ck).toNat = a.s2 := by
  rw [Accumulators.ck, ckHi_ckOf]
  exact congrArg Accumulators.s2 ha.narrow

theorem Accumulators.Reduced.ckLegal_ck {a : Accumulators} (ha : a.Reduced) : ckLegal a.ck = true := by
  have hs1 : a.s1 < modulus := ha.1
  have hs2 : a.s2 < modulus := ha.2
  simp [ckLegal, ha.ckHi_ck, ha.ckLo_ck, hs1, hs2]

/-- Settles O21: the halves of the checksum value that CE_FINAL read are the registers, and CE_LOAD writes them. -/
theorem loadRestoresWhatFinalSaved : Obligations.LoadRestoresWhatFinalSaved := by
  intro s s' hs1 hs2
  have legal : ckLegal s.ck = true := by
    rw [State.ck_eq_acc_ck]
    exact Accumulators.Reduced.ckLegal_ck ⟨hs1, hs2⟩
  refine ⟨_, _, rfl, execCeLoad_legal legal s', ?_, ?_, rfl, rfl, rfl⟩
  · simp [State.ck, ckLo_ckOf]
  · simp [State.ck, ckHi_ckOf]

theorem compareStatus_self (ck : Word) : compareStatus ck ck = .ok := (compareStatus_eq_ok ck ck).2 rfl

theorem compareStatus_of_ne {received computed : Word} (h : received ≠ computed) :
    compareStatus received computed = .checksumMismatch := if_neg h

/-- Settles O22: CE_VERIFY is a response with the checksum value, and equality of words is equality of their values. -/
theorem verifyComparesAllThirtyTwoBits : Obligations.VerifyComparesAllThirtyTwoBits := by
  refine ⟨decode_ceVerify, fun s arg0 => ⟨_, rfl, sameChecksum_respond s _ _, sameEnvironment_respond s _ _, s.ck_toNat,
    rfl, fun heq => ?_, fun hne => ?_⟩⟩
  · have : arg0 = s.ck := BitVec.eq_of_toNat_eq (heq.trans s.ck_toNat.symm)
    rw [State.respond_status, this, compareStatus_self]
    rfl
  · have : arg0 ≠ s.ck := fun h => hne (h ▸ s.ck_toNat)
    rw [State.respond_status, compareStatus_of_ne this]
    rfl

theorem ofWireBytes_of_wireBytes_eq {ck : Word} {t0 t1 t2 t3 : Byte} (h : wireBytes ck = [t0, t1, t2, t3]) :
    ofWireBytes t0 t1 t2 t3 = ck := by
  apply BitVec.eq_of_toNat_eq
  rw [ofWireBytes_toNat, (wireBytes_eq_iff ck t0 t1 t2 t3).1 h]

/-- Settles O23: neither the comparison nor the checksum value reads the configuration or the hidden registers, and the
wire bytes assemble to the value they came from. -/
theorem onlyTheRightTrailerVerifies : Obligations.OnlyTheRightTrailerVerifies := by
  refine ⟨fun s cfg d arg0 hne => ⟨_, rfl, ?_⟩, fun s t0 t1 t2 t3 hwire => ⟨_, rfl, ?_⟩⟩
  · exact congrArg Status.code (compareStatus_of_ne hne)
  · rw [State.respond_status, ofWireBytes_of_wireBytes_eq hwire, compareStatus_self]
    rfl

/-- Settles O24: the formula's pair is reduced and written; both errors only report. -/
theorem combineAppendsOrReports : Obligations.CombineAppendsOrReports := by
  refine ⟨decode_ceCombine, fun s arg0 arg1 hc hhi hlo => ⟨_, execCeCombine_legal hc (ckLegal_of_lt hhi hlo) arg1, ?_,
      sameEnvironment_setAcc_respond s _ _ _, State.ck_toNat _, rfl, rfl⟩,
    fun s arg0 arg1 hc h => ⟨_, execCeCombine_illegal hc (ckLegal_of_le h) arg1, onlyReports_raise s .invalidState⟩,
    fun s arg0 arg1 hc => ⟨_, execCeCombine_absent hc arg0 arg1, onlyReports_raise s .unsupported⟩⟩
  rw [ckLo_toNat, ckHi_toNat]
  exact holdsReduced_setAcc_respond s (combine_reduced _ _ _ _) _ _

end Sys2Proof.Machine
end

section
/-! O17, O25, O26, O27 and O30: the fold and the laws of the checksum (40_checksum_engine.md R81, R83, R95, R97, R98). -/

namespace Sys2Proof.Machine

theorem Accumulators.Reduced.ck_toNat {a : Accumulators} (ha : a.Reduced) : a.ck.toNat = a.s2 * 65536 + a.s1 := by
  have hlo := ha.ckLo_ck
  have hhi := ha.ckHi_ck
  rw [ckLo_toNat] at hlo
  rw [ckHi_toNat] at hhi
  omega

theorem adler_toNat (bytes : List Byte) :
    (adler bytes).toNat = (foldSeq fresh bytes).s2 * 65536 + (foldSeq fresh bytes).s1 :=
  (foldSeq_reduced fresh_reduced bytes).ck_toNat

/-- Settles O17: the fold is R81's by definition, and the checksum value of a reduced pair loses nothing. -/
theorem foldAddsTheNewS1IntoS2 : Obligations.FoldAddsTheNewS1IntoS2 :=
  ⟨fun _ _ _ => rfl, foldSeq_nil, foldSeq_cons, adler_toNat, fresh_ck, by decide⟩

/-- CE_UPDATE commands fold their bytes one after another, whatever their LEN. -/
theorem execAll_ceUpdates_acc (us : List (BitVec 3 × Word)) (s : State) :
    ∃ t, execAll (us.map fun u => .ceUpdate u.1 u.2) s = .next t ∧
      t.acc = foldSeq s.acc (us.flatMap fun u => bytesOf u.1.toNat u.2) := by
  induction us generalizing s with
  | nil => exact ⟨s, rfl, rfl⟩
  | cons u us ih =>
    obtain ⟨t, hall, ht⟩ := ih ((s.foldBytes (bytesOf u.1.toNat u.2)).respond .ok (s.foldBytes (bytesOf u.1.toNat u.2)).ck)
    refine ⟨t, (execAll_cons (exec_ceUpdate u.1 u.2 s) _).trans hall, ?_⟩
    rw [ht, State.respond_acc, State.foldBytes_acc_eq_foldSeq, List.flatMap_cons, foldSeq_append]

/-- Settles O26: folding is a left fold over the bytes, and each CE_UPDATE folds its own from where the last ended. -/
theorem updatesDependOnlyOnTheByteStream : Obligations.UpdatesDependOnlyOnTheByteStream :=
  ⟨foldSeq_append, fun us s _ => execAll_ceUpdates_acc us s⟩

/-- The final S1 is the start's plus every byte, modulo P. -/
theorem foldSeq_s1_modEq (a : Accumulators) (bytes : List Byte) :
    (foldSeq a bytes).s1 ≡ a.s1 + (bytes.map BitVec.toNat).sum [MOD 65521] := by
  induction bytes generalizing a with
  | nil => rfl
  | cons b bytes ih =>
    have hfold : (fold a b).s1 ≡ a.s1 + b.toNat [MOD 65521] := Nat.mod_modEq _ _
    calc (foldSeq a (b :: bytes)).s1
      _ ≡ (fold a b).s1 + (bytes.map BitVec.toNat).sum [MOD 65521] := ih (fold a b)
      _ ≡ a.s1 + b.toNat + (bytes.map BitVec.toNat).sum [MOD 65521] := hfold.add_right _
      _ = a.s1 + ((b :: bytes).map BitVec.toNat).sum := by rw [List.map_cons, List.sum_cons, add_assoc]

theorem foldSeq_append_cons_reduced (a : Accumulators) (xs : List Byte) (b : Byte) (ys : List Byte) :
    (foldSeq a (xs ++ b :: ys)).Reduced := by
  rw [foldSeq_append, foldSeq_cons]
  exact foldSeq_reduced (fold_reduced _ _) ys

/-- Changing one byte changes the final S1 by the difference of the bytes. -/
theorem foldSeq_s1_change (a : Accumulators) (xs ys : List Byte) (x y : Byte) :
    (foldSeq a (xs ++ x :: ys)).s1 + y.toNat ≡ (foldSeq a (xs ++ y :: ys)).s1 + x.toNat [MOD 65521] := by
  have hx := (foldSeq_s1_modEq a (xs ++ x :: ys)).add_right y.toNat
  have hy := (foldSeq_s1_modEq a (xs ++ y :: ys)).add_right x.toNat
  have hsum : a.s1 + ((xs ++ x :: ys).map BitVec.toNat).sum + y.toNat =
      a.s1 + ((xs ++ y :: ys).map BitVec.toNat).sum + x.toNat := by
    simp only [List.map_append, List.map_cons, List.sum_append, List.sum_cons]
    omega
  exact hx.trans (hsum ▸ hy.symm)

/-- Settles O27: two bytes differ by less than P, so S1 changes, and the checksum value shows S1. -/
theorem changingOneByteChangesTheChecksum : Obligations.ChangingOneByteChangesTheChecksum := by
  intro a b1 b2 x y hne
  have hchange := foldSeq_s1_change a b1 b2 x y
  have hs1 : (foldSeq a (b1 ++ x :: b2)).s1 ≠ (foldSeq a (b1 ++ y :: b2)).s1 := by
    intro heq
    rw [heq] at hchange
    have hbytes : y.toNat ≡ x.toNat [MOD 65521] := Nat.ModEq.add_left_cancel' _ hchange
    have := hbytes.eq_of_lt_of_lt (by omega) (by omega)
    exact hne (BitVec.eq_of_toNat_eq this.symm)
  refine ⟨hchange, hs1, fun hck => hs1 ?_⟩
  rw [← (foldSeq_append_cons_reduced a b1 x b2).ckLo_ck, hck, (foldSeq_append_cons_reduced a b1 y b2).ckLo_ck]

/-- R94's formula for an empty second sequence. -/
theorem combine_fresh {a : Accumulators} (ha : a.Reduced) : combine a fresh.s1 fresh.s2 0 = a := by
  simp [combine, fresh, Nat.mod_eq_of_lt ha.1, Nat.mod_eq_of_lt ha.2]

/-- One byte more in the second sequence: the number of times that the first one's S1 enters S2 grows by one. -/
theorem succ_mod_mul_modEq (n k : Nat) : (n + 1) % modulus * k ≡ n % modulus * k + k [MOD modulus] := by
  calc (n + 1) % modulus * k
    _ ≡ (n + 1) * k [MOD modulus] := (Nat.mod_modEq _ _).mul_right k
    _ = n * k + k := Nat.succ_mul n k
    _ ≡ n % modulus * k + k [MOD modulus] := ((Nat.mod_modEq _ _).symm.mul_right k).add_right k

/-- R94's formula for a second sequence of one byte more: the byte may be folded before or after combining. -/
theorem fold_combine (a c : Accumulators) (n : Nat) (b : Byte) :
    fold (combine a c.s1 c.s2 n) b = combine a (fold c b).s1 (fold c b).s2 (n + 1) := by
  have hmul := succ_mod_mul_modEq n (a.s1 + modulus - 1)
  simp only [fold, combine, Nat.ModEq, Accumulators.mk.injEq] at hmul ⊢
  generalize n % modulus * (a.s1 + modulus - 1) = before at hmul ⊢
  generalize (n + 1) % modulus * (a.s1 + modulus - 1) = after at hmul ⊢
  simp only [modulus] at hmul ⊢
  omega

/-- R94's formula is the fold of the second sequence from where the first ended (40_checksum_engine.md R95). -/
theorem foldSeq_eq_combine {a : Accumulators} (ha : a.Reduced) (ys : List Byte) :
    foldSeq a ys = combine a (foldSeq fresh ys).s1 (foldSeq fresh ys).s2 ys.length := by
  induction ys using List.reverseRecOn with
  | nil => exact (combine_fresh ha).symm
  | append_singleton ys b ih =>
    rw [foldSeq_append, ih, foldSeq_append, List.length_append]
    exact fold_combine a (foldSeq fresh ys) ys.length b

theorem combine_congr {n m : Nat} (h : n % modulus = m % modulus) (a : Accumulators) (lo hi : Nat) :
    combine a lo hi n = combine a lo hi m := by
  simp only [combine, h]

/-- Settles O25: the operand's halves are the second sequence's pair, and its length counts modulo P alone. -/
theorem combineIsTheChecksumOfTheConcatenation : Obligations.CombineIsTheChecksumOfTheConcatenation := by
  intro s start x y n hc hs1 hs2 hacc hlen
  have hy : (foldSeq fresh y).Reduced := foldSeq_reduced fresh_reduced y
  have hx : s.acc.Reduced := hacc ▸ foldSeq_reduced ⟨hs1, hs2⟩ x
  refine ⟨_, execCeCombine_legal hc hy.ckLegal_ck n, ?_, rfl⟩
  rw [State.respond_acc]
  calc (s.setAcc (combine s.acc (ckLo (adler y)).toNat (ckHi (adler y)).toNat n.toNat)).acc
    _ = combine s.acc (ckLo (adler y)).toNat (ckHi (adler y)).toNat n.toNat := s.setAcc_acc (combine_reduced _ _ _ _)
    _ = combine s.acc (foldSeq fresh y).s1 (foldSeq fresh y).s2 n.toNat := by rw [adler, hy.ckLo_ck, hy.ckHi_ck]
    _ = combine s.acc (foldSeq fresh y).s1 (foldSeq fresh y).s2 y.length := combine_congr hlen _ _ _
    _ = foldSeq s.acc y := (foldSeq_eq_combine hx y).symm
    _ = foldSeq start (x ++ y) := by rw [hacc, foldSeq_append]

theorem execAll_append {is js : List Instr} {s t : State} (h : execAll is s = .next t) :
    execAll (is ++ js) s = execAll js t := by
  induction is generalizing s with
  | nil => cases h; rfl
  | cons i is ih =>
    obtain ⟨u, hu, -⟩ := exec_ends i s
    rw [execAll_cons hu] at h
    rw [List.cons_append, execAll_cons hu, ih h]

/-- Settles O30: the fold starts from the fresh pair, and CE_FINAL shows where it ends. -/
theorem initFoldFinalReturnsTheChecksum : Obligations.InitFoldFinalReturnsTheChecksum := by
  intro s bytes
  obtain ⟨t, hall, hacc⟩ := execAll_foldInstrs_acc bytes ((s.setAcc fresh).respond .ok fresh.ck)
  rw [State.respond_acc, s.setAcc_acc fresh_reduced] at hacc
  have hck : t.ck = adler bytes := by rw [State.ck_eq_acc_ck, hacc, adler]
  exact ⟨_, execAll_append (is := .ceInit :: foldInstrs bytes) hall, rfl, hck, rfl⟩

end Sys2Proof.Machine
end

section
/-! The checks of the header codec and the two meanings by their outcome (41_header_codec.md R111, R112, R114). -/

namespace Sys2Proof.Machine

theorem fieldError_of_method_ne {d : Descriptor} (hm : d.method.toNat ≠ 8) : fieldError d = some .invalidMethod :=
  if_pos hm

theorem fieldError_of_windowInfo_gt {d : Descriptor} (hm : d.method.toNat = 8) (hw : 7 < d.windowInfo.toNat) :
    fieldError d = some .invalidWindowInfo := by
  simp [fieldError, validMethod, maxWindowInfo, hm, hw]

theorem fieldError_of_valid {d : Descriptor} (hm : d.method.toNat = 8) (hw : d.windowInfo.toNat ≤ 7) :
    fieldError d = none := by
  simp [fieldError, validMethod, maxWindowInfo, hm, Nat.not_lt.2 hw]

theorem truncate_eq_headerArg (arg0 : Word) : arg0.truncate 16 = headerArg arg0 :=
  BitVec.eq_of_toNat_eq (by simp [headerArg_toNat])

theorem headerArg_zeroExtend (w : Half) : headerArg (w.zeroExtend 32) = w :=
  BitVec.eq_of_toNat_eq (by simp [headerArg_toNat, w.isLt])

theorem exec_hcParse_of_ok {arg0 : Word} {d : Descriptor} (h : parseHeader (headerArg arg0) = .ok d) (s : State) :
    exec (.hcParse arg0) s = .next (s.respond .ok d.toWord) := by
  simp only [exec, execHcParse, h]

theorem exec_hcParse_of_error {arg0 : Word} {e : Status} (h : parseHeader (headerArg arg0) = .error e) (s : State) :
    exec (.hcParse arg0) s = .next (s.raise e) := by
  simp only [exec, execHcParse, h]

theorem exec_hcSerialize_of_ok {arg0 : Word} {w : Half} (h : serializeHeader (Descriptor.ofWord arg0) = .ok w) (s : State) :
    exec (.hcSerialize arg0) s = .next (s.respond .ok (w.zeroExtend 32)) := by
  simp only [exec, execHcSerialize, h]

theorem exec_hcSerialize_of_error {arg0 : Word} {e : Status} (h : serializeHeader (Descriptor.ofWord arg0) = .error e)
    (s : State) : exec (.hcSerialize arg0) s = .next (s.raise e) := by
  simp only [exec, execHcSerialize, h]

end Sys2Proof.Machine
end

section
/-! O34 and O36: HC_PARSE (41_header_codec.md R110 to R112). Each outcome of the three checks is a condition on the value of
the header word; the word passes them all exactly when it is valid. -/

namespace Sys2Proof.Machine

theorem decode_hcParse (a0 a1 : Word) : decode ⟨0x00000010, a0, a1⟩ = .ok (.hcParse a0) :=
  decode_of_cmd_eq rfl (congrArg Command.cmd (encode_hcParse a0)).symm rfl

/-- The fields of a header word, which `parseHeader` answers when they pass its checks (30_encoding.md R69). -/
def headerDescriptor (w : Half) : Descriptor := Descriptor.ofBytes (headerByte0 w) (headerByte1 w)

theorem headerDescriptor_method_toNat (w : Half) : (headerDescriptor w).method.toNat = w.toNat / 256 % 16 := by
  simp [headerDescriptor, Descriptor.ofBytes, headerByte0_toNat]

theorem headerDescriptor_windowInfo_toNat (w : Half) : (headerDescriptor w).windowInfo.toNat = w.toNat / 4096 := by
  simp only [headerDescriptor, Descriptor.ofBytes, BitVec.extractLsb'_toNat, headerByte0_toNat, Nat.shiftRight_eq_div_pow]
  omega

/-- In the descriptor layout the bytes of the header word are swapped (30_encoding.md R68, R69). -/
theorem headerDescriptor_toWord_toNat (w : Half) :
    (headerDescriptor w).toWord.toNat = w.toNat % 256 * 256 + w.toNat / 256 := by
  rw [headerDescriptor, Descriptor.toWord_ofBytes_toNat, headerByte0_toNat, headerByte1_toNat]

theorem checkConstraint_iff (w : Half) : checkConstraint w = true ↔ w.toNat % 31 = 0 := beq_iff_eq

theorem parseHeader_of_fieldError {w : Half} {e : Status} (h : fieldError (headerDescriptor w) = some e) :
    parseHeader w = .error e := by
  unfold headerDescriptor at h
  simp only [parseHeader, h]

theorem parseHeader_of_fieldError_none {w : Half} (h : fieldError (headerDescriptor w) = none) :
    parseHeader w = if checkConstraint w then .ok (headerDescriptor w) else .error .checkConstraintViolated := by
  unfold headerDescriptor at h
  simp only [parseHeader, h, headerDescriptor]

section
variable {w : Half}

theorem parseHeader_of_method_ne (hm : w.toNat / 256 % 16 ≠ 8) : parseHeader w = .error .invalidMethod :=
  parseHeader_of_fieldError (fieldError_of_method_ne (by rwa [headerDescriptor_method_toNat]))

theorem parseHeader_of_windowInfo_gt (hm : w.toNat / 256 % 16 = 8) (hw : 7 < w.toNat / 4096) :
    parseHeader w = .error .invalidWindowInfo :=
  parseHeader_of_fieldError (fieldError_of_windowInfo_gt (by rwa [headerDescriptor_method_toNat])
    (by rwa [headerDescriptor_windowInfo_toNat]))

theorem parseHeader_of_valid_fields (hm : w.toNat / 256 % 16 = 8) (hw : w.toNat / 4096 ≤ 7) :
    parseHeader w = if checkConstraint w then .ok (headerDescriptor w) else .error .checkConstraintViolated :=
  parseHeader_of_fieldError_none (fieldError_of_valid (by rwa [headerDescriptor_method_toNat])
    (by rwa [headerDescriptor_windowInfo_toNat]))

theorem parseHeader_of_constraint_violated (hm : w.toNat / 256 % 16 = 8) (hw : w.toNat / 4096 ≤ 7)
    (hc : w.toNat % 31 ≠ 0) : parseHeader w = .error .checkConstraintViolated :=
  (parseHeader_of_valid_fields hm hw).trans (if_neg (mt (checkConstraint_iff w).1 hc))

theorem parseHeader_of_valid (h : ValidHeader w) : parseHeader w = .ok (headerDescriptor w) := by
  obtain ⟨hm, hw, hc⟩ := h
  exact (parseHeader_of_valid_fields hm hw).trans (if_pos ((checkConstraint_iff w).2 hc))

theorem parseHeader_of_not_valid (h : ¬ ValidHeader w) : ∃ e : Status, e ≠ .ok ∧ parseHeader w = .error e := by
  by_cases hm : w.toNat / 256 % 16 = 8
  · by_cases hw : w.toNat / 4096 ≤ 7
    · exact ⟨_, by decide, parseHeader_of_constraint_violated hm hw fun hc => h ⟨hm, hw, hc⟩⟩
    · exact ⟨_, by decide, parseHeader_of_windowInfo_gt hm (Nat.lt_of_not_le hw)⟩
  · exact ⟨_, by decide, parseHeader_of_method_ne hm⟩

end

/-- Settles O36: a valid header word passes all three checks, and any other fails one. -/
theorem parseAcceptsExactlyTheValidHeaders : Obligations.ParseAcceptsExactlyTheValidHeaders := by
  intro s arg0
  rw [truncate_eq_headerArg]
  by_cases h : ValidHeader (headerArg arg0)
  · exact ⟨_, exec_hcParse_of_ok (parseHeader_of_valid h) s, iff_of_true rfl h⟩
  · obtain ⟨e, he, hparse⟩ := parseHeader_of_not_valid h
    exact ⟨_, exec_hcParse_of_error hparse s, iff_of_false (mt e.code_eq_zero.1 he) h⟩

/-- The fields of two bytes at their places in the descriptor layout (30_encoding.md R68, R69). -/
theorem descriptor_fields_of_bytes (byte0 byte1 : Nat) : byte1 / 64 * 2 ^ 14 + byte1 / 32 % 2 * 2 ^ 13 +
    byte1 % 32 * 2 ^ 8 + byte0 / 16 * 2 ^ 4 + byte0 % 16 = byte1 * 256 + byte0 := by
  omega

/-- Settles O34: one outcome of the checks per clause, and the descriptor's value is its fields at their places. -/
theorem parseChecksThenReturnsTheDescriptor : Obligations.ParseChecksThenReturnsTheDescriptor := by
  refine ⟨decode_hcParse, fun s arg0 byte0 byte1 h0 h1 => ?_⟩
  have hbyte0 : byte0 = (headerArg arg0).toNat / 256 := by
    rw [headerArg_toNat, h0]
    omega
  have hbyte1 : byte1 = (headerArg arg0).toNat % 256 := by
    rw [headerArg_toNat, h1]
    omega
  have hwindow : byte0 / 16 = (headerArg arg0).toNat / 4096 := by rw [hbyte0, Nat.div_div_eq_div_mul]
  have hvalue : byte0 * 256 + byte1 = (headerArg arg0).toNat := by rw [hbyte0, hbyte1, Nat.div_add_mod']
  have hword : BitVec.ofNat 32 (byte1 / 64 * 2 ^ 14 + byte1 / 32 % 2 * 2 ^ 13 + byte1 % 32 * 2 ^ 8 + byte0 / 16 * 2 ^ 4 +
      byte0 % 16) = (headerDescriptor (headerArg arg0)).toWord := by
    rw [descriptor_fields_of_bytes, hbyte0, hbyte1, ← headerDescriptor_toWord_toNat, BitVec.ofNat_toNat, BitVec.setWidth_eq]
  rw [hword, hwindow, hvalue, hbyte0]
  refine ⟨fun hm => ?_, fun hm hw => ?_, fun hm hw hc => ?_, fun hm hw hc => ?_⟩
  · exact ⟨_, exec_hcParse_of_error (parseHeader_of_method_ne hm) s, onlyReports_raise s _⟩
  · exact ⟨_, exec_hcParse_of_error (parseHeader_of_windowInfo_gt hm hw) s, onlyReports_raise s _⟩
  · exact ⟨_, exec_hcParse_of_error (parseHeader_of_constraint_violated hm hw hc) s, onlyReports_raise s _⟩
  · exact ⟨_, exec_hcParse_of_ok (parseHeader_of_valid ⟨hm, hw, hc⟩) s, onlyReports_respond s .ok _⟩

end Sys2Proof.Machine
end

section
/-! O35, O37 and O38: the check bits, HC_SERIALIZE and the round trips (41_header_codec.md R114 to R116). A header word is its
base plus its check_bits, and the constraint determines the check_bits up to 0 and 31. -/

namespace Sys2Proof.Machine

theorem decode_hcSerialize (a0 a1 : Word) : decode ⟨0x00000011, a0, a1⟩ = .ok (.hcSerialize a0) :=
  decode_of_cmd_eq rfl (congrArg Command.cmd (encode_hcSerialize a0)).symm rfl

theorem checkBitsFor_lt (base : Nat) : checkBitsFor base < 31 := Nat.mod_lt _ (by decide)

theorem add_checkBitsFor_mod (base : Nat) : (base + checkBitsFor base) % 31 = 0 := by
  unfold checkBitsFor
  omega

theorem checkBitsFor_le {base fc : Nat} (h : (base + fc) % 31 = 0) : checkBitsFor base ≤ fc := by
  unfold checkBitsFor
  omega

/-- A 5-bit solution of the constraint is the smallest, or 31 where the smallest is 0 (41_header_codec.md R115). -/
theorem eq_checkBitsFor_or_eq_31 {base fc : Nat} (hfc : fc < 32) (h : (base + fc) % 31 = 0) :
    fc = checkBitsFor base ∨ base % 31 = 0 ∧ fc = 31 := by
  unfold checkBitsFor
  omega

theorem headerBase_eq (d : Descriptor) : headerBase d =
    (d.windowInfo.toNat * 16 + d.method.toNat) * 256 + d.levelHint.toNat * 64 + d.hasDictionary.toNat * 32 := by
  simp only [headerBase, headerOfBytes_toNat, Descriptor.byte0_toNat, Descriptor.byte1_toNat, BitVec.ofNat_eq_ofNat,
    BitVec.toNat_ofNat]
  omega

theorem headerBase_ofWord (arg0 : Word) :
    headerBase (Descriptor.ofWord arg0) = arg0.toNat % 256 * 256 + arg0.toNat / 2 ^ 13 % 8 * 32 := by
  simp only [headerBase_eq, Descriptor.ofWord, BitVec.extractLsb'_toNat, Nat.shiftRight_eq_div_pow]
  omega

/-- A header word is its base plus its check_bits. -/
theorem headerBase_headerDescriptor_add (w : Half) :
    headerBase (headerDescriptor w) + (headerDescriptor w).checkBits.toNat = w.toNat := by
  simp only [headerBase_eq, headerDescriptor, Descriptor.ofBytes, BitVec.extractLsb'_toNat, headerByte0_toNat,
    headerByte1_toNat, Nat.shiftRight_eq_div_pow]
  omega

/-- The header word that `serializeHeader` answers when the fields pass its checks (41_header_codec.md R114). -/
def serializedHeader (d : Descriptor) : Half := BitVec.ofNat 16 (headerBase d + checkBitsFor (headerBase d))

theorem serializedHeader_toNat (d : Descriptor) :
    (serializedHeader d).toNat = headerBase d + checkBitsFor (headerBase d) := by
  have hbase : headerBase d + 31 < 2 ^ 16 := by
    rw [headerBase_eq]
    omega
  have hfc := checkBitsFor_lt (headerBase d)
  exact Nat.mod_eq_of_lt (by omega)

section
variable {d : Descriptor}

theorem serializeHeader_of_fieldError {e : Status} (h : fieldError d = some e) : serializeHeader d = .error e := by
  simp only [serializeHeader, h]

theorem serializeHeader_of_valid (hm : d.method.toNat = 8) (hw : d.windowInfo.toNat ≤ 7) :
    serializeHeader d = .ok (serializedHeader d) := by
  simp only [serializeHeader, fieldError_of_valid hm hw, serializedHeader]

/-- HC_SERIALIZE answers valid header words only (41_header_codec.md R116). -/
theorem validHeader_serializedHeader (hm : d.method.toNat = 8) (hw : d.windowInfo.toNat ≤ 7) :
    ValidHeader (serializedHeader d) := by
  have hfc := checkBitsFor_lt (headerBase d)
  have hbase := headerBase_eq d
  rw [ValidHeader, serializedHeader_toNat]
  exact ⟨by omega, by omega, add_checkBitsFor_mod _⟩

end

theorem ofWord_method_toNat (arg0 : Word) : (Descriptor.ofWord arg0).method.toNat = arg0.toNat % 16 := by
  simp [Descriptor.ofWord]

theorem ofWord_windowInfo_toNat (arg0 : Word) : (Descriptor.ofWord arg0).windowInfo.toNat = arg0.toNat / 16 % 16 := by
  simp [Descriptor.ofWord, Nat.shiftRight_eq_div_pow]

theorem ofWord_hasDictionary_toNat (arg0 : Word) :
    (Descriptor.ofWord arg0).hasDictionary.toNat = arg0.toNat / 2 ^ 13 % 2 := by
  simp [Descriptor.ofWord, Nat.shiftRight_eq_div_pow]

theorem ofWord_levelHint_toNat (arg0 : Word) : (Descriptor.ofWord arg0).levelHint.toNat = arg0.toNat / 2 ^ 14 % 4 := by
  simp [Descriptor.ofWord, Nat.shiftRight_eq_div_pow]

/-- Settles O35: one outcome of the checks per clause, and the header word is its base plus the smallest solution. -/
theorem serializeChecksThenReturnsTheHeader : Obligations.SerializeChecksThenReturnsTheHeader := by
  refine ⟨decode_hcSerialize, fun s arg0 m wi d lv base hm hwi hd hlv hbase => ?_⟩
  rw [← ofWord_method_toNat] at hm
  rw [← ofWord_windowInfo_toNat] at hwi
  have hheader : headerBase (Descriptor.ofWord arg0) = base := by
    rw [headerBase_eq, ofWord_hasDictionary_toNat, ofWord_levelHint_toNat, ← hm, ← hwi, ← hd, ← hlv, hbase, add_assoc]
  have hfc : (31 - base % 31) % 31 = checkBitsFor base := rfl
  rw [hm, hwi, hfc, ← hheader, ← serializedHeader_toNat]
  refine ⟨fun hm => ?_, fun hm hw => ?_, fun hm hw => ?_⟩
  · have hser := serializeHeader_of_fieldError (fieldError_of_method_ne hm)
    exact ⟨_, exec_hcSerialize_of_error hser s, onlyReports_raise s _⟩
  · have hser := serializeHeader_of_fieldError (fieldError_of_windowInfo_gt hm hw)
    exact ⟨_, exec_hcSerialize_of_error hser s, onlyReports_raise s _⟩
  · refine ⟨_, exec_hcSerialize_of_ok (serializeHeader_of_valid hm hw) s, ?_, ?_, fun fc => checkBitsFor_le⟩
    · rw [BitVec.ofNat_toNat]
      exact onlyReports_respond s .ok _
    · rw [State.respond_result, truncate_eq_headerArg, headerArg_zeroExtend]
      exact validHeader_serializedHeader hm hw

/-- Where the base of valid fields satisfies the constraint by itself (41_header_codec.md R115). Modulo 31 the base is
`4·window_info + 2·level_hint + has_dictionary + 2`, which is at most 37. -/
theorem valid_base_mod_eq_zero_iff {wi d lv : Nat} (hwi : wi ≤ 7) (hd : d ≤ 1) (hlv : lv ≤ 3) :
    ((wi * 16 + 8) * 256 + lv * 64 + d * 32) % 31 = 0 ↔ (wi = 7 ∧ d = 1 ∧ lv = 0) ∨ (wi = 6 ∧ d = 1 ∧ lv = 2) := by
  constructor
  · intro h
    have hresidue : 4 * wi + 2 * lv + d = 29 := by omega
    omega
  · rintro (⟨rfl, rfl, rfl⟩ | ⟨rfl, rfl, rfl⟩) <;> rfl

/-- The solutions among the 32 check_bits values depend on the base modulo 31 alone. -/
theorem filter_checkBits (base : Nat) : (List.range 32).filter (fun fc => (base + fc) % 31 == 0) =
    if base % 31 = 0 then [0, 31] else [31 - base % 31] := by
  have residues : ∀ r < 31, (List.range 32).filter (fun fc => (r + fc) % 31 == 0) = if r = 0 then [0, 31] else [31 - r] := by
    decide
  rw [← residues (base % 31) (Nat.mod_lt _ (by decide))]
  simp only [Nat.mod_add_mod]

/-- Settles O37: the solutions by the base's residue, the two combinations by its bound, and both words by evaluation. -/
theorem checkBitsAreUniqueButForTwoHeaders : Obligations.CheckBitsAreUniqueButForTwoHeaders := by
  refine ⟨filter_checkBits, fun wi d lv => valid_base_mod_eq_zero_iff, fun s => ⟨?_, ?_⟩⟩
  · have hser : serializeHeader (Descriptor.ofWord 0x00003F78) = .ok 0x7820 := by decide
    exact ⟨_, exec_hcSerialize_of_ok hser s, rfl⟩
  · have hser : serializeHeader (Descriptor.ofWord 0x0000BF68) = .ok 0x68A0 := by decide
    exact ⟨_, exec_hcSerialize_of_ok hser s, rfl⟩

theorem ValidHeader.valid_fields {w : Half} (h : ValidHeader w) :
    (headerDescriptor w).method.toNat = 8 ∧ (headerDescriptor w).windowInfo.toNat ≤ 7 := by
  obtain ⟨hm, hw, -⟩ := h
  exact ⟨(headerDescriptor_method_toNat w).trans hm, (headerDescriptor_windowInfo_toNat w).trans_le hw⟩

/-- The only valid header words that do not have the smallest check_bits (41_header_codec.md R115). -/
theorem eq_of_valid_of_checkBits_ne {w : Half} (h : ValidHeader w)
    (hne : (headerDescriptor w).checkBits.toNat ≠ checkBitsFor (headerBase (headerDescriptor w))) :
    w = 0x783F ∨ w = 0x68BF := by
  obtain ⟨hm, hw⟩ := h.valid_fields
  obtain ⟨-, -, hc⟩ := h
  have hsum := headerBase_headerDescriptor_add w
  rw [← hsum] at hc
  obtain ⟨hbase, hfc⟩ := (eq_checkBitsFor_or_eq_31 (headerDescriptor w).checkBits.isLt hc).resolve_left hne
  rw [headerBase_eq, hm] at hbase hsum
  obtain ⟨hwi, hd, hlv⟩ | ⟨hwi, hd, hlv⟩ := (valid_base_mod_eq_zero_iff hw (by omega) (by omega)).1 hbase
  · exact .inl (BitVec.eq_of_toNat_eq (by rw [← hsum, hwi, hd, hlv, hfc]; rfl))
  · exact .inr (BitVec.eq_of_toNat_eq (by rw [← hsum, hwi, hd, hlv, hfc]; rfl))

/-- HC_SERIALIZE undoes HC_PARSE, but for the two header words with check_bits 31 (41_header_codec.md R116). -/
theorem serializedHeader_headerDescriptor {w : Half} (h : ValidHeader w) : serializedHeader (headerDescriptor w) =
    if w = 0x783F then 0x7820 else if w = 0x68BF then 0x68A0 else w := by
  split_ifs with h783F h68BF
  · subst h783F
    decide
  · subst h68BF
    decide
  · have hfc : (headerDescriptor w).checkBits.toNat = checkBitsFor (headerBase (headerDescriptor w)) := by
      by_contra hne
      exact (eq_of_valid_of_checkBits_ne h hne).elim h783F h68BF
    apply BitVec.eq_of_toNat_eq
    rw [serializedHeader_toNat, ← hfc, headerBase_headerDescriptor_add]

/-- HC_PARSE undoes HC_SERIALIZE, but for the check_bits, which are the chosen ones (41_header_codec.md R116). -/
theorem headerDescriptor_serializedHeader_toWord_toNat (arg0 : Word) :
    (headerDescriptor (serializedHeader (Descriptor.ofWord arg0))).toWord.toNat = arg0.toNat / 2 ^ 13 % 8 * 2 ^ 13 +
      (serializedHeader (Descriptor.ofWord arg0)).toNat % 32 * 2 ^ 8 + arg0.toNat % 256 := by
  have hfc := checkBitsFor_lt (headerBase (Descriptor.ofWord arg0))
  rw [headerDescriptor_toWord_toNat, serializedHeader_toNat]
  rw [headerBase_ofWord] at hfc ⊢
  omega

theorem exec_hcParse_zeroExtend {w : Half} (h : ValidHeader w) (s : State) :
    exec (.hcParse (w.zeroExtend 32)) s = .next (s.respond .ok (headerDescriptor w).toWord) :=
  exec_hcParse_of_ok (by rw [headerArg_zeroExtend, parseHeader_of_valid h]) s

theorem exec_hcSerialize_toWord {d : Descriptor} (hm : d.method.toNat = 8) (hw : d.windowInfo.toNat ≤ 7) (s : State) :
    exec (.hcSerialize d.toWord) s = .next (s.respond .ok ((serializedHeader d).zeroExtend 32)) :=
  exec_hcSerialize_of_ok (by rw [Descriptor.ofWord_toWord, serializeHeader_of_valid hm hw]) s

/-- Settles O38: HC_SERIALIZE answers a valid word, and HC_PARSE answers the fields of the word it was given. -/
theorem headerRoundTrips : Obligations.HeaderRoundTrips := by
  refine ⟨fun s arg0 hm hw => ?_, fun s w h => ?_⟩
  · rw [← ofWord_method_toNat] at hm
    rw [← ofWord_windowInfo_toNat] at hw
    refine ⟨_, _, exec_hcSerialize_of_ok (serializeHeader_of_valid hm hw) s,
      exec_hcParse_zeroExtend (validHeader_serializedHeader hm hw) _, rfl, ?_⟩
    rw [State.respond_result, State.respond_result, BitVec.toNat_setWidth_of_le (by decide)]
    exact headerDescriptor_serializedHeader_toWord_toNat arg0
  · obtain ⟨hm, hw⟩ := h.valid_fields
    refine ⟨_, _, exec_hcParse_zeroExtend h s, exec_hcSerialize_toWord hm hw _, rfl, ?_⟩
    rw [State.respond_result, serializedHeader_headerDescriptor h]
    split_ifs <;> rfl

end Sys2Proof.Machine
end

section
/-! O9 and O43: every step answers, every accepted command responds, and STATUS is written and never read
(60_exceptions.md R132, R145). -/

namespace Sys2Proof.Machine

theorem step_answers (s : State) : ∃ t, step s = .next t := by
  obtain ⟨-, -, t, -, -, h, -⟩ | ⟨-, h⟩ | ⟨rest, -, h⟩ := step_cases s
  · exact ⟨t, h⟩
  · exact ⟨s.wait, h⟩
  · exact ⟨(s.taking rest).resetEdge, h⟩

/-- Settles O9: an accepted command ends in one of three shapes, each of which responds and keeps the environment. -/
theorem everyAcceptedCommandResponds : Obligations.EveryAcceptedCommandResponds := by
  refine ⟨step_answers, fun s c rest offers => ?_⟩
  obtain ⟨t, hrun, ends⟩ := runCommand_ends c (s.taking rest)
  have hstep : step s = .next t := (step_of_offers offers).trans hrun
  obtain ⟨hcfg, hready, hinputs⟩ := ends.sameEnvironment
  obtain ⟨ready, -⟩ := offers
  exact ⟨t, hstep, ends.rspValid, hready.trans ready, hinputs, hcfg⟩

/-- Every branch of every meaning ends in `respond`, which overwrites STATUS, and no branch condition reads it. -/
theorem exec_with_status (i : Instr) (s : State) (before : BitVec 4) : exec i { s with status := before } = exec i s := by
  cases i with
  | nop | ceInit | ceFinal => rfl
  | ceUpdate len arg0 => rfl
  | ceLoad arg0 | ceVerify arg0 | hcParse arg0 | hcSerialize arg0 => rfl
  | ceCombine arg0 arg1 => rfl

theorem runCommand_with_status (c : Command) (s : State) (before : BitVec 4) :
    runCommand c { s with status := before } = runCommand c s := by
  cases h : decode c with
  | ok i => rw [runCommand_of_ok h, runCommand_of_ok h, exec_with_status]
  | error e =>
    rw [runCommand_of_error h, runCommand_of_error h]
    rfl

/-- Settles O43: no command reads STATUS, and every command ends in a response. -/
theorem errorsAreNotSticky : Obligations.ErrorsAreNotSticky := by
  intro c s before
  obtain ⟨t, hrun, ends⟩ := runCommand_ends s c
  exact ⟨runCommand_with_status s c before, t, hrun, ends.rspValid⟩

end Sys2Proof.Machine
end

section
/-! O41 and O42: what an accepted command reports (60_exceptions.md R130, R131, R134, R135). Each command answers in one of
three ways, and which one its words and the state decide, in the order of `reportedCode`. -/

namespace Sys2Proof.Machine

/-- The ways in which a command that reports code `n` answers from `s`: OK with any effect, an error that only raises its
code, and CHECKSUM_MISMATCH, the one error with a RESULT (60_exceptions.md R131). -/
inductive Answers (s : State) : Result → Nat → Prop where
  | ok (u : State) (result : Word) : Answers s (.next (u.respond .ok result)) 0
  | raised (e : Status) (ne : e ≠ .checksumMismatch) : Answers s (.next (s.raise e)) e.code.toNat
  | mismatch : Answers s (.next (s.respond .checksumMismatch s.ck)) 4

/-- Only CHECKSUM_MISMATCH has code 4. -/
theorem Status.code_eq_four (code : Status) : code.code = 4 ↔ code = .checksumMismatch := by
  cases code <;> decide

theorem Answers.reports {s : State} {r : Result} {n : Nat} (h : Answers s r n) :
    ∃ t, r = .next t ∧ t.status.toNat = n ∧ (n = 4 → t.result = s.ck) ∧ (n ≠ 0 → n ≠ 4 → t.result = 0) := by
  cases h with
  | ok u result => exact ⟨_, rfl, rfl, fun h => absurd h (by decide), fun h => absurd rfl h⟩
  | raised e ne =>
    exact ⟨_, rfl, rfl, fun h => absurd (e.code_eq_four.1 (BitVec.eq_of_toNat_eq h)) ne, fun _ _ => rfl⟩
  | mismatch => exact ⟨_, rfl, rfl, fun _ => rfl, fun _ h => absurd rfl h⟩

theorem Answers.onlyReports {s t : State} {n : Nat} (h : Answers s (.next t) n) (err : t.status ≠ 0) :
    OnlyReports s t (if t.status = 4 then s.ck else 0) t.status := by
  cases h with
  | ok u result => exact absurd rfl err
  | raised e ne =>
    have hne : (s.raise e).status ≠ 4 := mt e.code_eq_four.1 ne
    rw [if_neg hne]
    exact onlyReports_raise s e
  | mismatch => exact onlyReports_respond s .checksumMismatch s.ck

/-- The operand check of CE_LOAD and CE_COMBINE, by the values of the halves (40_checksum_engine.md R90). -/
theorem badHalf_iff_ckLegal_eq_false (arg0 : Word) :
    (65521 ≤ arg0.toNat / 65536 ∨ 65521 ≤ arg0.toNat % 65536) ↔ ckLegal arg0 = false := by
  rw [← Bool.not_eq_true, ckLegal_iff]
  omega

theorem reportedCode_of_illegal {c : Command} (h : Illegal c.cmd) (s : State) : reportedCode s c = 5 := if_pos h

section
variable {c : Command} (legal : ¬ Illegal c.cmd) (s : State)
include legal

/-- NOP, CE_INIT, CE_UPDATE and CE_FINAL have no error of their own. -/
theorem reportedCode_of_opc_le_three (hopc : c.cmd.toNat % 256 ≤ 3) : reportedCode s c = 0 := by
  have h4 : c.cmd.toNat % 256 ≠ 4 := by omega
  have h5 : c.cmd.toNat % 256 ≠ 5 := by omega
  have h6 : c.cmd.toNat % 256 ≠ 6 := by omega
  have h16 : c.cmd.toNat % 256 ≠ 16 := by omega
  have h17 : c.cmd.toNat % 256 ≠ 17 := by omega
  refine (if_neg legal).trans ?_
  simp [h4, h5, h6, h16, h17]

theorem reportedCode_ceLoad (hopc : c.cmd.toNat % 256 = 4) :
    reportedCode s c = if ckLegal c.arg0 = false then 6 else 0 := by
  refine (if_neg legal).trans ?_
  simp [hopc, badHalf_iff_ckLegal_eq_false]

theorem reportedCode_ceVerify (hopc : c.cmd.toNat % 256 = 5) : reportedCode s c = if c.arg0 ≠ s.ck then 4 else 0 := by
  refine (if_neg legal).trans ?_
  simp [hopc, ← BitVec.toNat_inj, State.ck_toNat]

theorem reportedCode_ceCombine (hopc : c.cmd.toNat % 256 = 6) : reportedCode s c =
    if s.cfg.hasCombine = false then 7 else if ckLegal c.arg0 = false then 6 else 0 := by
  refine (if_neg legal).trans ?_
  simp [hopc, badHalf_iff_ckLegal_eq_false]

theorem reportedCode_hcParse (hopc : c.cmd.toNat % 256 = 16) : reportedCode s c =
    if (headerArg c.arg0).toNat / 256 % 16 ≠ 8 then 1 else if 7 < (headerArg c.arg0).toNat / 4096 then 2
    else if (headerArg c.arg0).toNat % 31 ≠ 0 then 3 else 0 := by
  have hmethod : c.arg0.toNat / 256 % 16 = c.arg0.toNat % 65536 / 256 % 16 := by omega
  have hwindow : c.arg0.toNat / 4096 % 16 = c.arg0.toNat % 65536 / 4096 := by omega
  refine (if_neg legal).trans ?_
  simp [hopc, headerArg_toNat, hmethod, hwindow]

theorem reportedCode_hcSerialize (hopc : c.cmd.toNat % 256 = 17) : reportedCode s c =
    if (Descriptor.ofWord c.arg0).method.toNat ≠ 8 then 1 else if 7 < (Descriptor.ofWord c.arg0).windowInfo.toNat then 2
    else 0 := by
  refine (if_neg legal).trans ?_
  simp [hopc, ofWord_method_toNat, ofWord_windowInfo_toNat]

theorem exec_ceLoad_answers (hopc : c.cmd.toNat % 256 = 4) :
    Answers s (exec (.ceLoad c.arg0) s) (reportedCode s c) := by
  rw [reportedCode_ceLoad legal s hopc, exec]
  cases h : ckLegal c.arg0 with
  | false =>
    rw [execCeLoad_illegal h]
    exact .raised .invalidState (by decide)
  | true =>
    rw [execCeLoad_legal h]
    exact .ok _ _

theorem exec_ceVerify_answers (hopc : c.cmd.toNat % 256 = 5) :
    Answers s (exec (.ceVerify c.arg0) s) (reportedCode s c) := by
  rw [reportedCode_ceVerify legal s hopc, exec, execCeVerify]
  split_ifs with h
  · rw [compareStatus_of_ne h]
    exact .mismatch
  · rw [not_not.1 h, compareStatus_self]
    exact .ok s s.ck

theorem exec_ceCombine_answers (hopc : c.cmd.toNat % 256 = 6) :
    Answers s (exec (.ceCombine c.arg0 c.arg1) s) (reportedCode s c) := by
  rw [reportedCode_ceCombine legal s hopc, exec]
  cases hc : s.cfg.hasCombine with
  | false =>
    rw [execCeCombine_absent hc]
    exact .raised .unsupported (by decide)
  | true =>
    cases h : ckLegal c.arg0 with
    | false =>
      rw [execCeCombine_illegal hc h]
      exact .raised .invalidState (by decide)
    | true =>
      rw [execCeCombine_legal hc h]
      exact .ok _ _

theorem exec_hcParse_answers (hopc : c.cmd.toNat % 256 = 16) :
    Answers s (exec (.hcParse c.arg0) s) (reportedCode s c) := by
  rw [reportedCode_hcParse legal s hopc]
  split_ifs with hm hw hc
  · rw [exec_hcParse_of_error (parseHeader_of_method_ne hm)]
    exact .raised .invalidMethod (by decide)
  · rw [exec_hcParse_of_error (parseHeader_of_windowInfo_gt (not_not.1 hm) hw)]
    exact .raised .invalidWindowInfo (by decide)
  · rw [exec_hcParse_of_error (parseHeader_of_constraint_violated (not_not.1 hm) (not_lt.1 hw) hc)]
    exact .raised .checkConstraintViolated (by decide)
  · rw [exec_hcParse_of_ok (parseHeader_of_valid ⟨not_not.1 hm, not_lt.1 hw, not_not.1 hc⟩)]
    exact .ok _ _

theorem exec_hcSerialize_answers (hopc : c.cmd.toNat % 256 = 17) :
    Answers s (exec (.hcSerialize c.arg0) s) (reportedCode s c) := by
  rw [reportedCode_hcSerialize legal s hopc]
  split_ifs with hm hw
  · rw [exec_hcSerialize_of_error (serializeHeader_of_fieldError (fieldError_of_method_ne hm))]
    exact .raised .invalidMethod (by decide)
  · rw [exec_hcSerialize_of_error (serializeHeader_of_fieldError (fieldError_of_windowInfo_gt (not_not.1 hm) hw))]
    exact .raised .invalidWindowInfo (by decide)
  · rw [exec_hcSerialize_of_ok (serializeHeader_of_valid (not_not.1 hm) (not_lt.1 hw))]
    exact .ok _ _

/-- A legal word's instruction, with the transfer's operands, answers as the code of its opcode says. -/
theorem exec_answers {i : Instr} (hopc : c.cmd.toNat % 256 = i.opcode.toNat) (hold : HoldsOperands c i) :
    Answers s (exec i s) (reportedCode s c) := by
  cases i with
  | nop | ceInit | ceFinal =>
    rw [reportedCode_of_opc_le_three legal s (hopc.trans_le (by decide))]
    exact .ok _ _
  | ceUpdate len arg0 =>
    rw [reportedCode_of_opc_le_three legal s (hopc.trans_le (by decide : (0x02 : BitVec 8).toNat ≤ 3))]
    exact .ok _ _
  | ceLoad arg0 =>
    cases hold
    exact exec_ceLoad_answers legal s hopc
  | ceVerify arg0 =>
    cases hold
    exact exec_ceVerify_answers legal s hopc
  | ceCombine arg0 arg1 =>
    obtain ⟨rfl, rfl⟩ := hold
    exact exec_ceCombine_answers legal s hopc
  | hcParse arg0 =>
    cases hold
    exact exec_hcParse_answers legal s hopc
  | hcSerialize arg0 =>
    cases hold
    exact exec_hcSerialize_answers legal s hopc

end

/-- Every command reports the first cause that applies, in one of the three ways. -/
theorem runCommand_answers (c : Command) (s : State) : Answers s (runCommand c s) (reportedCode s c) := by
  cases h : decode c with
  | error e =>
    rw [runCommand_of_error h, reportedCode_of_illegal ((illegal_iff_decode_error c).2 ⟨e, h⟩)]
    exact .raised .illegalCommand (by decide)
  | ok i =>
    have legal : ¬ Illegal c.cmd := (not_illegal_iff_decode_ok c).2 ⟨i, h⟩
    obtain ⟨hselect, -⟩ := (decode_eq_ok_iff c i).1 h
    obtain ⟨hopc, hold⟩ := (select_eq_some_iff c i).1 hselect
    rw [runCommand_of_ok h]
    exact exec_answers legal s (by rw [← opcOf_toNat, hopc]) hold

/-- The code does not depend on the host's later inputs, so it can be read before the step or once the command is taken. -/
theorem step_answers_reportedCode {s : State} {c : Command} {rest : List HostInput} (offers : Offers s c rest) :
    Answers (s.taking rest) (step s) (reportedCode s c) := by
  rw [step_of_offers offers]
  exact runCommand_answers c (s.taking rest)

/-- Settles O41: the step answers in one of the three ways, each of which has the RESULT of its code. -/
theorem everyCommandReportsTheFirstErrorThatApplies : Obligations.EveryCommandReportsTheFirstErrorThatApplies :=
  fun _ _ _ offers => (step_answers_reportedCode offers).reports

/-- Settles O42: both ways of reporting an error leave everything but the response alone. -/
theorem errorsChangeOnlyResultAndStatus : Obligations.ErrorsChangeOnlyResultAndStatus := by
  intro s t c rest offers hstep err
  have answers := step_answers_reportedCode offers
  rw [hstep] at answers
  exact answers.onlyReports err

end Sys2Proof.Machine
end

section
/-! O12 and O13: reset as a step, and the first command after it (70_reset_and_hazards.md R160, R162). -/

namespace Sys2Proof.Machine

/-- A reset and a command that reset cuts off are one step: the edge, on the inputs still to come. -/
theorem step_eq_resetEdge {s : State} {rest : List HostInput}
    (h : s.inputs = .reset :: rest ∨ ∃ c, s.inputs = .interrupted c :: rest) :
    step s = .next (s.taking rest).resetEdge := by
  obtain hreset | ⟨c, hcut⟩ := h
  · simp [step, hreset, assertReset]
  · simp [step, hcut, assertReset]

theorem holdsReduced_resetEdge (s : State) : HoldsReduced s.resetEdge 1 0 := ⟨rfl, rfl, rfl⟩

/-- Settles O12: both inputs are the reset edge, every field of which is given by the lemma about it. -/
theorem assertingResetLoadsTheResetValues : Obligations.AssertingResetLoadsTheResetValues :=
  fun s rest h => ⟨(s.taking rest).resetEdge, step_eq_resetEdge h, holdsReduced_resetEdge _, State.resetEdge_result _,
    State.resetEdge_status _, State.resetEdge_cmdReady _, State.resetEdge_rspValid _, State.resetEdge_inputs _,
    State.resetEdge_cfg _⟩

/-- Reset leaves the fresh pair in the accumulators. -/
@[simp] theorem State.resetEdge_ck (s : State) : s.resetEdge.ck = 0x00000001 := fresh_ck

/-- A ready block that is offered CE_FINAL responds with the checksum value, whatever the operand words. -/
theorem step_ceFinal {s : State} {a0 a1 : Word} {rest : List HostInput} (offers : Offers s ⟨0x00000003, a0, a1⟩ rest) :
    step s = .next ((s.taking rest).respond .ok s.ck) :=
  (step_of_offers offers).trans (runCommand_of_ok (decode_ceFinal a0 a1) _)

/-- After the edge the block is not ready, so the command waits for one step on its port, and the next accepts it. -/
theorem responses_resetEdge_ceFinal {s : State} {a0 a1 : Word} {rest : List HostInput}
    (h : s.inputs = .command ⟨0x00000003, a0, a1⟩ :: rest) : responses 2 s.resetEdge = [⟨0x00000001, 0⟩] := by
  have hwait : step s.resetEdge = .next s.resetEdge.wait := step_eq_wait (.inr ⟨rfl, _, _, h⟩)
  have hfinal : step s.resetEdge.wait = .next ((s.resetEdge.wait.taking rest).respond .ok s.resetEdge.wait.ck) :=
    step_ceFinal ⟨rfl, h⟩
  rw [responses_succ hwait, responses_succ hfinal]
  simp [responses, Status.code]

/-- Settles O13: the reset step gives no response, and from the edge CE_FINAL gives its one response in two steps. -/
theorem finalAfterResetReturnsOne : Obligations.FinalAfterResetReturnsOne := by
  intro s a0 a1 rest
  rw [responses_succ (step_eq_resetEdge (.inl (State.taking_inputs s _))), responses_resetEdge_ceFinal rfl]
  rfl

end Sys2Proof.Machine
end
